-- ==== Sys2Proof/Word.lean ====
section
/-! DEFINITION. The two value widths of the block (spec/00_scope.md R7). -/

namespace Sys2Proof

/-- A byte: 8 bits, unsigned (R7).  Frame bytes, function codes, addresses of slaves. -/
abbrev Byte := BitVec 8

/-- A cell or word: 16 bits, unsigned (R7).  Register values, register addresses, quantities, checksums. -/
abbrev Word := BitVec 16

end Sys2Proof
end

