-- ==== Sys2Proof/Machine/Operands.lean ====
section
/-! DEFINITION. Operand forms: how 16-bit values are taken from and put into byte sequences
(spec/20_memory.md R51, spec/30_encoding.md R87, spec/46_common_semantics.md R206). -/

namespace Sys2Proof.Machine

/-- A 16-bit field of a frame, high byte first: (hi << 8) | lo (R51, R87). -/
def be16 (hi lo : Byte) : Word := (hi.setWidth 16 <<< 8) ||| lo.setWidth 16

/-- A received CRC, low byte first: lo | (hi << 8) (R51, R87). -/
def le16 (lo hi : Byte) : Word := lo.setWidth 16 ||| (hi.setWidth 16 <<< 8)

/-- v[15:8]. -/
def hiByte (v : Word) : Byte := v.extractLsb' 8 8

/-- v[7:0]. -/
def loByte (v : Word) : Byte := v.extractLsb' 0 8

/-- A cell value on the wire: high byte, then low byte (R51). -/
def beBytes (v : Word) : List Byte := [hiByte v, loByte v]

/-- A CRC value on the wire: low byte, then high byte (R51). -/
def leBytes (c : Word) : List Byte := [loByte c, hiByte c]

/-- The cells of a read reply in the order given, each high byte first (R84). -/
def serialise (vals : List Word) : List Byte := vals.flatMap beBytes

/-- BYTECOUNT = 2 * q (R84, R87).  It is used only for q <= MAX_QTY <= 127, where it is exact. -/
def byteCount (q : Word) : Byte := BitVec.ofNat 8 (2 * q.toNat)

/-- The function byte of an exception reply: f | 0x80 (R86, R181). -/
def errorFunction (f : Byte) : Byte := f ||| 0x80#8

/-- The operands of a register-access request: BUF[2..3] and BUF[4..5], each high byte first, whatever the frame's
length is (R83, R87, R151, R166).  None when the buffer has no such cells, which FRAME_CAP >= 8 excludes. -/
def registerOperands : List Byte → Option (Word × Word)
  | _ :: _ :: b2 :: b3 :: b4 :: b5 :: _ => some (be16 b2 b3, be16 b4 b5)
  | _ => none

end Sys2Proof.Machine
end

