-- ==== Sys2Proof/Machine/Crc.lean ====
section
/-! DEFINITION. The CRC-16 routine (spec/45_crc16.md R195 to R197), the Modbus checksum and not a CCITT one (R198, C1). -/

namespace Sys2Proof.Machine

/-- CRC_BIT (R197): shift right by one, and exclusive-or with 0xA001 when the bit shifted out was 1. -/
def crcBit (acc : Word) : Word :=
  if acc.getLsbD 0 then (acc >>> 1) ^^^ 0xA001#16 else acc >>> 1

/-- `k` bit steps. -/
def crcBits : Nat → Word → Word
  | 0, acc => acc
  | k + 1, acc => crcBits k (crcBit acc)

/-- CRC_BYTE (R196): the byte into bits 7:0 of ACC, then eight bit steps. -/
def crcByte (acc : Word) (b : Byte) : Word := crcBits 8 (acc ^^^ b.setWidth 16)

/-- CRC16 from a given accumulator. -/
def crcFrom (acc : Word) (bytes : List Byte) : Word := bytes.foldl crcByte acc

/-- CRC16 (R195): ACC starts at 0xFFFF, index 0 first, no final exclusive-or.  ACC is local to the routine (R26). -/
def crc16 (bytes : List Byte) : Word := crcFrom 0xFFFF#16 bytes

/-- A byte sequence with its checksum appended, low byte first (R81, R185). -/
def withCrc (bytes : List Byte) : List Byte := bytes ++ leBytes (crc16 bytes)

end Sys2Proof.Machine
end

