-- ==== Sys2Proof/Syntax.lean ====
section
/-! DEFINITION. The requests the block answers, one constructor per row of spec/opcode_table.json
(spec/30_encoding.md R89, R90). -/

namespace Sys2Proof

/-- A request, as the dispatcher selects it from the function code (R89).  RHR and WSR carry the two 16-bit operands of
format Q (R82, R87).  ILLF stands in the table as nine rows that do not overlap (R90); each is a constructor of its own,
named after the row's match value, and carries the whole function code, which the reply returns (R186). -/
inductive Instr where
  /-- RHR, Read Holding Registers, function 0x03: start address and quantity (R150). -/
  | rhr (start qty : Word)
  /-- WSR, Write Single Register, function 0x06: register address and value (R165). -/
  | wsr (reg val : Word)
  /-- ILLF, row 1fffffff: function codes 0x80 to 0xFF (R92). -/
  | illf80 (f : Byte)
  /-- ILLF, row 01ffffff: function codes 0x40 to 0x7F. -/
  | illf40 (f : Byte)
  /-- ILLF, row 001fffff: function codes 0x20 to 0x3F. -/
  | illf20 (f : Byte)
  /-- ILLF, row 0001ffff: function codes 0x10 to 0x1F. -/
  | illf10 (f : Byte)
  /-- ILLF, row 00001fff: function codes 0x08 to 0x0F. -/
  | illf08 (f : Byte)
  /-- ILLF, row 0000000f: function codes 0x00 and 0x01. -/
  | illf00 (f : Byte)
  /-- ILLF, row 00000010: function code 0x02. -/
  | illf02 (f : Byte)
  /-- ILLF, row 0000010f: function codes 0x04 and 0x05. -/
  | illf04 (f : Byte)
  /-- ILLF, row 00000111: function code 0x07. -/
  | illf07 (f : Byte)
  deriving DecidableEq, Repr

end Sys2Proof
end

