-- ==== Sys2Proof/WellFormed.lean ====
section
/-! DEFINITION. Which terms of Instr stand for a request: the function code an ILLF row carries must match that row
of spec/opcode_table.json (spec/30_encoding.md R90). -/

namespace Sys2Proof

/-- An ILLF term is well formed when its function code matches its row, (f AND mask) = match.
RHR and WSR take every value of their operands: no address, quantity or value is excluded by the encoding (R87, R166). -/
def Instr.wellFormed : Instr → Bool
  | .rhr _ _ => true
  | .wsr _ _ => true
  | .illf80 f => f &&& 0x80#8 == 0x80#8
  | .illf40 f => f &&& 0xC0#8 == 0x40#8
  | .illf20 f => f &&& 0xE0#8 == 0x20#8
  | .illf10 f => f &&& 0xF0#8 == 0x10#8
  | .illf08 f => f &&& 0xF8#8 == 0x08#8
  | .illf00 f => f &&& 0xFE#8 == 0x00#8
  | .illf02 f => f &&& 0xFF#8 == 0x02#8
  | .illf04 f => f &&& 0xFE#8 == 0x04#8
  | .illf07 f => f &&& 0xFF#8 == 0x07#8

end Sys2Proof
end

