-- ==== Sys2Proof/Decode.lean ====
section
/-! DEFINITION. The decoder, total on every (bytes, LEN) and rejecting by name (spec/30_encoding.md R80, R88, R89;
spec/41_validator_dispatcher.md R130 to R136), and the encoder written from R81, R82 and R93. -/

namespace Sys2Proof

open Sys2Proof.Machine

/-- Why a byte sequence is no request to this slave. -/
inductive Reject where
  /-- Fewer than 4 bytes (R131). -/
  | tooShort
  /-- BUF[0] is not SLAVE_ADDR (R132). -/
  | otherAddress
  /-- CRC16(BUF[0..n-3]) is not the received CRC (R133). -/
  | badCrc
  /-- The byte list has fewer than n cells, or no cells at indices 2 to 5 for a register access.  A frame buffer of
  FRAME_CAP >= 8 cells never gives this (R83). -/
  | missingCells
  deriving DecidableEq, Repr

/-- The ILLF row a function code other than 0x03 and 0x06 falls in (R90).  The rows do not overlap, so the order of the
tests is of no consequence. -/
def illegalFunctionRow (f : Byte) : Instr :=
  if f &&& 0x80#8 = 0x80#8 then .illf80 f
  else if f &&& 0xC0#8 = 0x40#8 then .illf40 f
  else if f &&& 0xE0#8 = 0x20#8 then .illf20 f
  else if f &&& 0xF0#8 = 0x10#8 then .illf10 f
  else if f &&& 0xF8#8 = 0x08#8 then .illf08 f
  else if f &&& 0xFE#8 = 0x00#8 then .illf00 f
  else if f &&& 0xFF#8 = 0x02#8 then .illf02 f
  else if f &&& 0xFE#8 = 0x04#8 then .illf04 f
  else .illf07 f

/-- DISPATCH (R135, R136): all 8 bits of the function code select the request, and nothing else does. -/
def decodeFunction (f : Byte) (buf : List Byte) : Except Reject Instr :=
  if f = 0x03#8 then
    match registerOperands buf with
    | some (start, qty) => .ok (.rhr start qty)
    | none => .error .missingCells
  else if f = 0x06#8 then
    match registerOperands buf with
    | some (reg, val) => .ok (.wsr reg val)
    | none => .error .missingCells
  else .ok (illegalFunctionRow f)

/-- The CRC a frame of n bytes carries, low byte at n-2, high byte at n-1 (R87). -/
def receivedCrc (buf : List Byte) (n : Nat) : Word := le16 (buf.getD (n - 2) 0) (buf.getD (n - 1) 0)

/-- VALIDATE and DISPATCH (R88, R130): length, then address, then CRC, then function code; the first failing test decides.
`buf` is the frame buffer with its stale bytes, `n` the frame's length. -/
def decode (addr : Byte) (buf : List Byte) (n : Nat) : Except Reject Instr :=
  if n < 4 then .error .tooShort
  else if buf.length < n then .error .missingCells
  else if buf.getD 0 0 ≠ addr then .error .otherAddress
  else if crc16 (buf.take (n - 2)) ≠ receivedCrc buf n then .error .badCrc
  else decodeFunction (buf.getD 1 0) buf

/-! ### The encoder -/

/-- The function code of a request (R89). -/
def Instr.func : Instr → Byte
  | .rhr _ _ => 0x03#8
  | .wsr _ _ => 0x06#8
  | .illf80 f => f
  | .illf40 f => f
  | .illf20 f => f
  | .illf10 f => f
  | .illf08 f => f
  | .illf00 f => f
  | .illf02 f => f
  | .illf04 f => f
  | .illf07 f => f

/-- The payload of a request: A_HI A_LO D_HI D_LO for format Q (R82), none for the shortest ILLF frame (R81, R186). -/
def Instr.payload : Instr → List Byte
  | .rhr start qty => beBytes start ++ beBytes qty
  | .wsr reg val => beBytes reg ++ beBytes val
  | .illf80 _ => []
  | .illf40 _ => []
  | .illf20 _ => []
  | .illf10 _ => []
  | .illf08 _ => []
  | .illf00 _ => []
  | .illf02 _ => []
  | .illf04 _ => []
  | .illf07 _ => []

/-- REQ addr, func, payload (R81, R93): the general request frame. -/
def request (addr f : Byte) (payload : List Byte) : List Byte := withCrc (addr :: f :: payload)

/-- The frame of a request to slave `addr` (R93): 8 bytes for RHR and WSR, 4 for ILLF. -/
def encode (addr : Byte) (i : Instr) : List Byte := request addr i.func i.payload

/-- BADCRC (R93): the frame with its last byte exclusive-ored with 0xFF. -/
def badCrc (frame : List Byte) : List Byte :=
  frame.dropLast ++ (frame.getLast?.toList.map fun b => b ^^^ 0xFF#8)

/-! ### The instruction word of spec/opcode_table.json -/

/-- Byte `k` of an instruction of `nbits` bits `w`, bit 0 the least significant bit of its first byte; zero above nbits. -/
def tableByte (nbits w k : Nat) : Byte := BitVec.ofNat 8 ((w % 2 ^ nbits) >>> (8 * k))

/-- The frame that carries a table word: the word is the FUNC byte, frame index 1 (R90), and further bytes of it, zero where
the table gives none, are the four operand bytes of format Q; address and CRC are supplied so that the frame is valid. -/
def tableFrame (addr : Byte) (nbits w : Nat) : List Byte :=
  request addr (tableByte nbits w 0)
    [tableByte nbits w 1, tableByte nbits w 2, tableByte nbits w 3, tableByte nbits w 4]

/-- The instruction the decoder reads from a table word.  The table's word holds no slave address, and the address decides
nothing but whether the frame is for this slave (R132), so the frame is built for slave 1. -/
def decodeTableWord (nbits w : Nat) : Option Instr :=
  match decode 0x01#8 (tableFrame 0x01#8 nbits w) 8 with
  | .ok i => some i
  | .error _ => none

end Sys2Proof
end

