-- ==== Sys2Proof/Config.lean ====
section
/-! DEFINITION. The parameters of the block (spec/00_scope.md R6, spec/10_state.md R30) and the free values
the spec leaves open at a reset event (spec/10_state.md R45). -/

namespace Sys2Proof

/-- The structural constants of an instance (R6, R30): "structural constants of an instance, not fields" of CFG.
The model fixes neither; they stand in State, and no step writes them. -/
structure Capacities where
  /-- FRAME_CAP, the capacity of the frame buffer in bytes. -/
  frameCap : Nat
  /-- RESP_CAP, the capacity of the response buffer in bytes. -/
  respCap : Nat
  deriving DecidableEq, Repr

/-- CFG, the block's only control state (R30).  CFG.TABLE, the binding of the register port to a memory, has no numeric
value the block computes on; the memory it is bound to is the field hr of State. -/
structure Cfg where
  /-- CFG.SLAVE_ADDR, 8 bits. -/
  slaveAddr : Byte
  /-- CFG.COUNT, the number of cells of HR, a natural 0 to 65536. -/
  count : Nat
  /-- CFG.T_SILENCE, the silence threshold in milliseconds. -/
  tSilence : Nat
  deriving DecidableEq, Repr

/-- Free value: the byte cell `i` of BUF holds after reset event number `k` ("any byte, fixed at reset", R45, U4).
It has no body, so nothing can be proved about its value (log entry 3). -/
opaque Config.resetByte (k i : Nat) : Byte

/-- Free value: what T_LAST holds after reset event number `k` (R45, U9; log entry 3). -/
opaque Config.resetTime (k : Nat) : Nat

end Sys2Proof
end

