-- ==== Sys2Proof/Machine/State.lean ====
section
/-! DEFINITION. Everything the spec gives the machine (spec/10_state.md R20 to R45), the environment's side of its
interfaces (R40 to R44, spec/30_encoding.md R94), the reasons a step can stop, and the state after reset. -/

namespace Sys2Proof.Machine

open Sys2Proof

/-- The register table HR as pairs (address, cell), in one canonical form: addresses strictly rising, no cell equal to what
an unlisted address holds (Memory.wf).  The unit is the 16-bit cell: "there is no byte access to HR" (R50), and a cell's
byte order in the environment's memory is not visible to the block (R51). -/
abbrev Memory := List (Nat × Word)

/-- What the environment can do between two POLL steps, and the poll event itself: the host script of R94, with the reset
event (R44, R260) and the configuration (R261) beside it. -/
inductive HostEvent where
  /-- RX: these bytes enter the transport's queue, in order (R40, R94). -/
  | rx (bytes : List Byte)
  /-- POLL t: one POLL step with now = t milliseconds (R42, R44, R94). -/
  | poll (now : Nat)
  /-- HOSTWR i, v: the environment writes HR[i] (R60, R94). -/
  | hostWrite (i : Nat) (v : Word)
  /-- The reset event (R44, R260). -/
  | reset
  /-- The environment supplies SLAVE_ADDR, COUNT and T_SILENCE (R261). -/
  | configure (cfg : Cfg)
  deriving DecidableEq, Repr

/-- How far the configuration has come since the last reset (R30, R261).  The model's own: the spec says what must happen before what
and names no register for it. -/
inductive Phase where
  /-- CFG has not been supplied since reset: no POLL step is possible yet. -/
  | unconfigured
  /-- CFG has been supplied, and no POLL step has happened since. -/
  | configured
  /-- A POLL step has happened since reset: CFG is constant until the next one. -/
  | polled
  deriving DecidableEq, Repr

/-- The state.  RSP with RLEN and ACC are scratch values of one step and stand in no field: "Nothing else survives from one
POLL step to the next" (R20, R25, R26, D24). -/
structure State where
  /-- FRAME_CAP and RESP_CAP (R6), constants of the instance. -/
  caps : Capacities
  /-- CFG (R30). -/
  cfg : Cfg
  /-- The model's own: whether CFG has been supplied and a POLL step has happened since reset (R30, R261, D26). -/
  phase : Phase
  /-- BUF (R21): FRAME_CAP cells. -/
  buf : List Byte
  /-- LEN (R22). -/
  len : Nat
  /-- T_LAST (R24), milliseconds. -/
  tLast : Nat
  /-- HR (R27). -/
  hr : Memory
  /-- RXQ, the transport's receive queue, oldest first (R40). -/
  rxq : List Byte
  /-- TX, every byte transmitted since reset, in order (R41). -/
  tx : List Byte
  /-- The clock (R42): the now of the latest POLL step since reset, 0 when there was none. -/
  now : Nat
  /-- The events the environment has yet to issue, the next one first (R94). -/
  host : List HostEvent
  /-- The model's own: how many reset events have happened; it selects the free values of the next one (R45). -/
  resets : Nat
  deriving DecidableEq, Repr

/-- Why the machine stops with a fault.  The spec gives the block no fault (R10, R224): each constructor guards a primitive
outside its domain (R9), and no state that meets State.Inv reaches one.  Each is safe: the model stops. -/
inductive Fault where
  /-- Raised by memRead and memWrite for an access outside [0, COUNT) (R43).  Safe. -/
  | registerPort
  /-- Raised by handleFrame and by WSR's echo for an index outside BUF (R21).  Safe. -/
  | frameBuffer
  /-- Raised by send for a response longer than RESP_CAP (R185).  Safe. -/
  | responseBuffer
  deriving DecidableEq, Repr

/-- Why the model gives a step no meaning.  Each but the first is a breach by the environment (R263) that the spec says to
refuse (U6, U7, D16, D26).  All are safe: nothing is claimed of such a run. -/
inductive Refusal where
  /-- An instruction that has no meaning yet; no arm of exec answers it. -/
  | notModelled (mnemonic : String)
  /-- Raised by the configure event, when the configuration is supplied, and by a POLL step on a block that has one all the same,
  for parameters outside R6 (R262, U6).  Safe. -/
  | illegalConfiguration
  /-- Raised by the POLL step when CFG has not been supplied since reset (R261, R262).  Safe. -/
  | missingConfiguration
  /-- Raised by the POLL step for a now smaller than an earlier one (R42, U7).  Safe. -/
  | clockRanBackwards
  /-- Raised by the hostWrite event for a cell the table does not have (R54).  Safe. -/
  | hostWriteOutsideTable
  /-- Raised by the configure event after the first POLL step since reset (R30, D26).  Safe. -/
  | reconfiguredWithoutReset
  deriving DecidableEq, Repr

/-- The outcome of one step of this machine. -/
abbrev Result := Host.Outcome State Fault Refusal

/-- The machine right after reset (R45): LEN = 0, TX empty, HR as the environment left it, here with nothing listed.  The spec
states no value for the parameters, BUF and T_LAST: DESIGN CHOICE, log entries 1, 2 and 15.  CFG counts as not yet supplied: whatever
its fields hold, no POLL step runs before the environment supplies it (R30, R261). -/
def State.reset : State where
  caps := { frameCap := 16, respCap := 16 }
  cfg := { slaveAddr := 0x01#8, count := 3, tSilence := 5 }
  phase := .unconfigured
  buf := List.replicate 16 0x00#8
  len := 0
  tLast := 0
  hr := []
  rxq := []
  tx := []
  now := 0
  host := []
  resets := 0

end Sys2Proof.Machine
end

