-- ==== Sys2Proof/Machine/Flags.lean ====
section
/-! DEFINITION. The block has no flags, condition codes or status bits (spec/10_state.md R29).  What other machines decide by
flags it decides by the comparisons here, all unsigned and exact (spec/46_common_semantics.md R206, R207), together
with the parameter constraints (spec/00_scope.md R6). -/

namespace Sys2Proof.Machine

open Sys2Proof

/-- MAX_QTY = floor((RESP_CAP - 5) / 2), the largest quantity a read response can carry (R6). -/
def maxQty (caps : Capacities) : Nat := (caps.respCap - 5) / 2

/-- 8 <= FRAME_CAP <= RESP_CAP <= 259 (R6). -/
def capsLegal (caps : Capacities) : Bool :=
  decide (8 ≤ caps.frameCap) && decide (caps.frameCap ≤ caps.respCap) && decide (caps.respCap ≤ 259)

/-- SLAVE_ADDR in 1 to 247 and COUNT at most 65536; every natural T_SILENCE is legal, 0 too (R6, D25). -/
def cfgLegal (cfg : Cfg) : Bool :=
  decide (1 ≤ cfg.slaveAddr.toNat) && decide (cfg.slaveAddr.toNat ≤ 247) && decide (cfg.count ≤ 65536)

/-- The parameters a POLL step needs (R262). -/
def State.parametersLegal (s : State) : Bool := capsLegal s.caps && cfgLegal s.cfg

/-- CFG has been supplied since reset: "all must be in place before the first poll event" (R261). -/
def State.cfgSupplied (s : State) : Bool := decide (s.phase ≠ .unconfigured)

/-- CFG may be supplied: no POLL step has happened since reset (R30, D26). -/
def State.cfgOpen (s : State) : Bool := decide (s.phase ≠ .polled)

/-- LEN < FRAME_CAP: a byte can be appended (R111, R112). -/
def State.hasRoom (s : State) : Bool := decide (s.len < s.caps.frameCap)

/-- The silence test, LEN > 0 and (now - T_LAST) > T_SILENCE, strict (R113). -/
def State.silent (t : Nat) (s : State) : Bool :=
  decide (0 < s.len) && decide (s.cfg.tSilence < t - s.tLast)

/-- RHR's bounds check, s + q <= COUNT with the sum exact (R55, R153). -/
def State.readInRange (s : State) (start qty : Word) : Bool :=
  decide (start.toNat + qty.toNat ≤ s.cfg.count)

/-- RHR's capacity check, q <= MAX_QTY (R154). -/
def State.readFits (s : State) (qty : Word) : Bool := decide (qty.toNat ≤ maxQty s.caps)

/-- WSR's bounds check, a < COUNT (R55, R168). -/
def State.writeInRange (s : State) (reg : Word) : Bool := decide (reg.toNat < s.cfg.count)

end Sys2Proof.Machine
end

