-- ==== Sys2Proof/Machine/Memory.lean ====
section
/-! DEFINITION. The register table as data: reading, writing and binding a table of COUNT cells, and the canonical form
(spec/10_state.md R27, R43; spec/20_memory.md R52, R54). -/

namespace Sys2Proof.Machine

open Sys2Proof

/-- What a cell the list does not name holds.  The contents of HR are the environment's (R27, U14): DESIGN CHOICE, log entry 2. -/
def Memory.unlisted : Word := 0x0000#16

/-- Read one cell (R43): no side effect. -/
def Memory.read : Memory → Nat → Word
  | [], _ => Memory.unlisted
  | (b, w) :: rest, a => if b = a then w else Memory.read rest a

/-- Put a cell in front of a table whose addresses are all larger; a cell that holds what an unlisted one holds is not listed. -/
def Memory.cons (a : Nat) (v : Word) (m : Memory) : Memory := if v = Memory.unlisted then m else (a, v) :: m

/-- Write one cell (R43), keeping the canonical form. -/
def Memory.write : Memory → Nat → Word → Memory
  | [], a, v => Memory.cons a v []
  | (b, w) :: rest, a, v =>
    if a < b then Memory.cons a v ((b, w) :: rest)
    else if a = b then Memory.cons a v rest
    else (b, w) :: Memory.write rest a v

/-- The part of a table below `count`: the cells that exist when the register port is bound to `count` cells (R30, R54). -/
def Memory.restrict (count : Nat) (m : Memory) : Memory := m.filter fun c => decide (c.1 < count)

/-- The canonical form from address `lo` on. -/
def Memory.wfFrom (count : Nat) : Nat → Memory → Bool
  | _, [] => true
  | lo, (a, v) :: rest =>
    decide (lo ≤ a) && decide (a < count) && decide (v ≠ Memory.unlisted) && Memory.wfFrom count (a + 1) rest

/-- The canonical form of a table of `count` cells: addresses strictly rising and below `count` (R54), no listed cell equal to
what an unlisted one holds. -/
def Memory.wf (count : Nat) (m : Memory) : Bool := Memory.wfFrom count 0 m

end Sys2Proof.Machine
end

