-- ==== Sys2Proof/Machine/Ops.lean ====
section
/-! DEFINITION. The named operations the meanings share: register-table access (spec/20_memory.md), the transmit step and the
Exception Responder (spec/44_exception_responder.md), and the clear that ends a frame (spec/40_collector_delimiter.md R114). -/

namespace Sys2Proof.Machine

open Sys2Proof

/-- TX ++= bytes (R9, R41): the sink accepts the whole sequence. -/
def State.transmit (s : State) (bytes : List Byte) : State := { s with tx := s.tx ++ bytes }

/-- HR with one cell written. -/
def State.writeCell (s : State) (a : Nat) (v : Word) : State := { s with hr := Memory.write s.hr a v }

/-- LEN <- 0 (R114): the clear writes LEN only, BUF keeps its bytes (R21, D11). -/
def State.clearFrame (s : State) : State := { s with len := 0 }

/-- MemRead(a, n) (R9): HR[a], ..., HR[a+n-1], ascending (R56); defined only when a + n <= COUNT. -/
def memRead (s : State) (a n : Nat) : Option (List Word) :=
  if a + n ≤ s.cfg.count then some ((List.range n).map fun k => Memory.read s.hr (a + k)) else none

/-- MemWrite(a, 1, v) (R9): HR[a] <- v; defined only when a < COUNT.  The old value is not read (R62). -/
def memWrite (s : State) (a : Nat) (v : Word) : Option State :=
  if a < s.cfg.count then some (s.writeCell a v) else none

/-- BUF[0..k-1]; none when BUF has fewer cells. -/
def frameBytes (s : State) (k : Nat) : Option (List Byte) :=
  if k ≤ s.buf.length then some (s.buf.take k) else none

/-- SEND (R185): the checksum of RSP[0..RLEN-1] is computed afresh and appended low byte first, and the whole goes to TX in one
write.  `rsp` is RSP[0..RLEN-1], built fresh for the request (R25); it must leave room for the CRC in RESP_CAP bytes. -/
def send (rsp : List Byte) (s : State) : Result :=
  if rsp.length + 2 ≤ s.caps.respCap then .next (s.transmit (withCrc rsp)) else .fault .responseBuffer

/-- EXC(f, e), the Exception Responder (R180, R228): the block's way of taking an exception.  It saves nothing and changes
nothing but TX, which gains [SLAVE_ADDR, f | 0x80, e] and its CRC. -/
def raiseException (f e : Byte) (s : State) : Result := send [s.cfg.slaveAddr, errorFunction f, e] s

/-- raise IllegalFunction(f) (R9, R180, R221). -/
def raiseIllegalFunction (f : Byte) (s : State) : Result := raiseException f 0x01#8 s

/-- raise IllegalDataAddress(f) (R9, R180, R222). -/
def raiseIllegalDataAddress (f : Byte) (s : State) : Result := raiseException f 0x02#8 s

/-- drop (R9): the handling of the frame ends with no byte appended to TX and no access to HR. -/
def drop (s : State) : Result := .next s

/-- What follows the handling of a frame, whatever its outcome (R114, R229): the buffer is cleared.  There is no other return from
an exception: nothing was saved and nothing has to be restored. -/
def endOfFrame : Result → Result
  | .next s => .next s.clearFrame
  | .fault r => .fault r
  | .refused r => .refused r

end Sys2Proof.Machine
end

