-- ==== Sys2Proof/Machine/Collector.lean ====
section
/-! DEFINITION. The Byte Collector (spec/40_collector_delimiter.md R111, R112). -/

namespace Sys2Proof.Machine

open Sys2Proof

/-- BUF[LEN] <- b, LEN <- LEN + 1, T_LAST <- now (R111). -/
def State.appendByte (s : State) (t : Nat) (b : Byte) : State :=
  { s with buf := s.buf.set s.len b, len := s.len + 1, tLast := t }

/-- One received byte: appended when there is room, else discarded, and a discarded byte writes nothing (R112, D10). -/
def State.collectByte (t : Nat) (s : State) (b : Byte) : State := if s.hasRoom then s.appendByte t b else s

/-- Every byte of `rx` in arrival order, all stamped with the step's one now (R42, R111). -/
def State.collectBytes (t : Nat) (s : State) (rx : List Byte) : State := rx.foldl (State.collectByte t) s

/-- RXQ emptied. -/
def State.emptyQueue (s : State) : State := { s with rxq := [] }

/-- The step takes the whole content of RXQ and leaves it empty (R40). -/
def State.collect (t : Nat) (s : State) : State := s.emptyQueue.collectBytes t s.rxq

end Sys2Proof.Machine
end

