-- ==== Sys2Proof/Machine/IllegalFunction.lean ====
section
/-! DEFINITION. ILLF, every function code other than 0x03 and 0x06 (spec/44_exception_responder.md R186): exception 0x01, HR not
accessed, the payload ignored.  The table gives ILLF nine rows (spec/30_encoding.md R90); each has a meaning of its own. -/

namespace Sys2Proof.Machine

open Sys2Proof

/-- ILLF, row 1fffffff, function codes 0x80 to 0xFF (R186). -/
def execIllf80 (f : Byte) (s : State) : Result := raiseIllegalFunction f s

/-- ILLF, row 01ffffff, function codes 0x40 to 0x7F (R186). -/
def execIllf40 (f : Byte) (s : State) : Result := raiseIllegalFunction f s

/-- ILLF, row 001fffff, function codes 0x20 to 0x3F (R186). -/
def execIllf20 (f : Byte) (s : State) : Result := raiseIllegalFunction f s

/-- ILLF, row 0001ffff, function codes 0x10 to 0x1F (R186). -/
def execIllf10 (f : Byte) (s : State) : Result := raiseIllegalFunction f s

/-- ILLF, row 00001fff, function codes 0x08 to 0x0F (R186). -/
def execIllf08 (f : Byte) (s : State) : Result := raiseIllegalFunction f s

/-- ILLF, row 0000000f, function codes 0x00 and 0x01 (R186). -/
def execIllf00 (f : Byte) (s : State) : Result := raiseIllegalFunction f s

/-- ILLF, row 00000010, function codes 0x02 (R186). -/
def execIllf02 (f : Byte) (s : State) : Result := raiseIllegalFunction f s

/-- ILLF, row 0000010f, function codes 0x04 and 0x05 (R186). -/
def execIllf04 (f : Byte) (s : State) : Result := raiseIllegalFunction f s

/-- ILLF, row 00000111, function codes 0x07 (R186). -/
def execIllf07 (f : Byte) (s : State) : Result := raiseIllegalFunction f s

end Sys2Proof.Machine
end

