-- ==== Sys2Proof/Machine/ReadHoldingRegisters.lean ====
section
/-! DEFINITION. RHR, Read Holding Registers, function 0x03 (spec/42_read_holding_registers.md). -/

namespace Sys2Proof.Machine

open Sys2Proof

/-- RSP[0..RLEN-1] of a read reply before its CRC (R84, R150). -/
def readReply (addr : Byte) (qty : Word) (vals : List Word) : List Byte :=
  addr :: 0x03#8 :: byteCount qty :: serialise vals

/-- RHR (R150): the bounds check (R153), the capacity check (R154), then the cells in ascending order (R152). -/
def execRhr (start qty : Word) (s : State) : Result :=
  if !s.readInRange start qty then raiseIllegalDataAddress 0x03#8 s
  else if !s.readFits qty then raiseIllegalDataAddress 0x03#8 s
  else
    match memRead s start.toNat qty.toNat with
    | some vals => send (readReply s.cfg.slaveAddr qty vals) s
    | none => .fault .registerPort

end Sys2Proof.Machine
end

