-- ==== Sys2Proof/Machine/WriteSingleRegister.lean ====
section
/-! DEFINITION. WSR, Write Single Register, function 0x06 (spec/43_write_single_register.md). -/

namespace Sys2Proof.Machine

open Sys2Proof

/-- WSR (R165): the bounds check (R168), the write, then the echo of BUF[0..LEN-3] with a CRC computed afresh (R167, R169). -/
def execWsr (reg val : Word) (s : State) : Result :=
  if !s.writeInRange reg then raiseIllegalDataAddress 0x06#8 s
  else
    match memWrite s reg.toNat val with
    | some s' =>
      match frameBytes s' (s'.len - 2) with
      | some echo => send echo s'
      | none => .fault .frameBuffer
    | none => .fault .registerPort

end Sys2Proof.Machine
end

