-- ==== Sys2Proof/Machine/Dispatch.lean ====
section
/-! DEFINITION. One arm per row of spec/opcode_table.json. -/

namespace Sys2Proof.Machine

open Sys2Proof

def exec (i : Instr) (s : State) : Host.Outcome State Fault Refusal :=
  match i with
  | .rhr start qty => Sys2Proof.Machine.execRhr start qty s
  | .wsr reg val => Sys2Proof.Machine.execWsr reg val s
  | .illf80 f => Sys2Proof.Machine.execIllf80 f s
  | .illf40 f => Sys2Proof.Machine.execIllf40 f s
  | .illf20 f => Sys2Proof.Machine.execIllf20 f s
  | .illf10 f => Sys2Proof.Machine.execIllf10 f s
  | .illf08 f => Sys2Proof.Machine.execIllf08 f s
  | .illf00 f => Sys2Proof.Machine.execIllf00 f s
  | .illf02 f => Sys2Proof.Machine.execIllf02 f s
  | .illf04 f => Sys2Proof.Machine.execIllf04 f s
  | .illf07 f => Sys2Proof.Machine.execIllf07 f s

end Sys2Proof.Machine
end

