-- ==== Sys2Proof/Machine/Poll.lean ====
section
/-! DEFINITION. The POLL step (spec/40_collector_delimiter.md R110), the handling of a completed frame
(spec/41_validator_dispatcher.md R130), and the placing of a frame for the host. -/

namespace Sys2Proof.Machine

open Sys2Proof

/-- HANDLE_FRAME(BUF, LEN) (R130): a frame that fails the length, address or CRC test is dropped, any other runs the request
it holds.  The decoder never lacks a cell of a buffer of FRAME_CAP >= 8 cells (R83). -/
def handleFrame (s : State) : Result :=
  match decode s.cfg.slaveAddr s.buf s.len with
  | .ok i => exec i s
  | .error .tooShort => drop s
  | .error .otherAddress => drop s
  | .error .badCrc => drop s
  | .error .missingCells => .fault .frameBuffer

/-- The Frame Delimiter (R113, R114): when the silence test succeeds, the frame is handled and the buffer cleared. -/
def delimit (t : Nat) (s : State) : Result := if s.silent t then endOfFrame (handleFrame s) else .next s

/-- What a POLL step notes of the clock and of CFG: the latest now (R42), and that CFG is constant from here on (R30). -/
def State.notePoll (s : State) (t : Nat) : State := { s with now := t, phase := .polled }

/-- The state the silence test of POLL(t) sees: every waiting byte collected (R110). -/
def State.afterCollect (s : State) (t : Nat) : State := (s.notePoll t).collect t

/-- POLL(now) (R110): collect, then test for silence.  A block whose configuration is missing or illegal is refused (R261, R262, U6),
and so is a clock that runs backwards (R42, U7).  An illegal configuration has been refused when it was supplied: that test fails
only in states no event leads to. -/
def poll (t : Nat) (s : State) : Result :=
  if !s.cfgSupplied then .refused .missingConfiguration
  else if !s.parametersLegal then .refused .illegalConfiguration
  else if t < s.now then .refused .clockRanBackwards
  else delimit t (s.afterCollect t)

/-- A now at which the silence test of the next POLL step succeeds and that is not before the latest one. -/
def State.silentTime (s : State) : Nat := max s.now (s.tLast + s.cfg.tSilence + 1)

/-- The state in which `frame` is completed by the very next step: CFG counts as supplied and polled, the frame's bytes stand in BUF,
nothing waits in RXQ, and the next event is a POLL after the silence threshold.  CFG's values, T_LAST, the clock and every other cell of BUF keep their values (log entry 6). -/
def State.placeFrame (s : State) (frame : List Byte) : State :=
  { s with
    phase := .polled
    buf := frame ++ s.buf.drop frame.length
    len := frame.length
    rxq := []
    host := .poll s.silentTime :: s.host }

end Sys2Proof.Machine
end

