-- ==== Sys2Proof/Machine/HostEvents.lean ====
section
/-! DEFINITION. The environment's events (spec/30_encoding.md R94; spec/70_reset_and_hazards.md R260 to R264). -/

namespace Sys2Proof.Machine

open Sys2Proof

/-- The state without the events that have been issued. -/
def State.withHost (s : State) (rest : List HostEvent) : State := { s with host := rest }

/-- RXQ with bytes added behind those waiting. -/
def State.enqueue (s : State) (bytes : List Byte) : State := { s with rxq := s.rxq ++ bytes }

/-- The effect of the reset event (R45, R260). -/
def State.afterReset (s : State) : State :=
  { s with
    buf := (List.range s.caps.frameCap).map (Config.resetByte s.resets)
    len := 0
    tLast := Config.resetTime s.resets
    tx := []
    now := 0
    phase := .unconfigured
    resets := s.resets + 1 }

/-- CFG supplied, and the register port bound to a table of COUNT cells (R30, R261). -/
def State.configured (s : State) (cfg : Cfg) : State := 
  { s with cfg := cfg, hr := Memory.restrict cfg.count s.hr, phase := .configured }

/-- RX (R40, R94): the bytes join the transport's queue. -/
def receive (bytes : List Byte) (s : State) : Result := .next (s.enqueue bytes)

/-- HOSTWR i, v (R60, R94): the environment writes a cell of its table, which has COUNT cells (R261). -/
def hostWrite (i : Nat) (v : Word) (s : State) : Result :=
  if i < s.cfg.count then .next (s.writeCell i v) else .refused .hostWriteOutsideTable

/-- RESET (R45, R260): LEN = 0, TX empty, BUF and T_LAST unspecified, each drawn once as a free value; HR, RXQ and the parameters
keep their values, and CFG must be supplied anew before the next POLL step (R261).  The duty on the clock counts from here (R42). -/
def resetBlock (s : State) : Result := .next s.afterReset

/-- The environment supplies CFG, all of it in one event (R261), before the first POLL step since reset only (R30, D26); with FRAME_CAP and
RESP_CAP it makes the block's configuration, and one outside R6 is refused here, where it is built (R262, D16).  The register port is then bound to a table of COUNT cells; what they hold is the
environment's (R27): here the cells that exist under the new COUNT keep their values. -/
def configure (cfg : Cfg) (s : State) : Result :=
  if !s.cfgOpen then .refused .reconfiguredWithoutReset
  else if !(capsLegal s.caps && cfgLegal cfg) then .refused .illegalConfiguration
  else .next (s.configured cfg)

/-- One event, `s` being the state without it. -/
def runEvent (e : HostEvent) (s : State) : Result :=
  match e with
  | .rx bytes => receive bytes s
  | .poll t => poll t s
  | .hostWrite i v => hostWrite i v s
  | .reset => resetBlock s
  | .configure cfg => configure cfg s

/-- The next event of the environment.  With none left nothing happens: the block "does nothing between POLL steps" (R5), and the
environment may never poll (R264). -/
def nextEvent (s : State) : Result :=
  match s.host with
  | [] => .next s
  | e :: rest => runEvent e (s.withHost rest)

end Sys2Proof.Machine
end

