-- ==== Sys2Proof/Machine/Step.lean ====
section
/-! DEFINITION. One step: the next event of the environment, a POLL step being one event (spec/00_scope.md R5;
spec/30_encoding.md R94). -/

namespace Sys2Proof.Machine

open Sys2Proof

/-- One atomic step (R5, D1). -/
def step (s : State) : Host.Outcome State Fault Refusal := nextEvent s

/-- `s` with the frame that carries a table word completed by the very next step (log entry 6). -/
def State.withFetchWord (s : State) (nbits w : Nat) : State :=
  s.placeFrame (tableFrame s.cfg.slaveAddr nbits w)

end Sys2Proof.Machine
end

