-- ==== Sys2Proof/Machine/Outcomes.lean ====
section
/-! DEFINITION. The closed list of outcomes of a completed frame (spec/60_exceptions.md R224, R226; spec/00_scope.md R10), written
flat over BUF, LEN, CFG and HR, without the decoder and without the meanings of the requests.  Statements compare the machine
with it; the machine does not use it. -/

namespace Sys2Proof.Machine

open Sys2Proof

/-- The eight outcomes of a completed frame: "There is no ninth" (R224).  Those with a reply carry the bytes sent. -/
inductive FrameOutcome where
  | droppedLength
  | droppedAddress
  | droppedCrc
  | illegalFunction (sent : List Byte)
  | readRejected (sent : List Byte)
  | writeRejected (sent : List Byte)
  | readData (sent : List Byte)
  | writeEcho (sent : List Byte)
  deriving DecidableEq, Repr

/-- The three outcomes of R10. -/
inductive FrameResult where
  | dropped
  | replied (sent : List Byte)
  | exception (sent : List Byte)
  deriving DecidableEq, Repr

/-- The kind of each outcome (R224). -/
def FrameOutcome.result : FrameOutcome → FrameResult
  | .droppedLength => .dropped
  | .droppedAddress => .dropped
  | .droppedCrc => .dropped
  | .illegalFunction sent => .exception sent
  | .readRejected sent => .exception sent
  | .writeRejected sent => .exception sent
  | .readData sent => .replied sent
  | .writeEcho sent => .replied sent

/-- The bytes an outcome adds to TX: none for a drop (R223). -/
def FrameResult.sent : FrameResult → List Byte
  | .dropped => []
  | .replied sent => sent
  | .exception sent => sent

/-- BUF[i] of a buffer that has the cell. -/
def State.bufAt (s : State) (i : Nat) : Byte := s.buf.getD i 0

/-- The 16-bit field at BUF[2..3]: start address of RHR, register address of WSR (R87). -/
def State.frameAddress (s : State) : Word := be16 (s.bufAt 2) (s.bufAt 3)

/-- The 16-bit field at BUF[4..5]: quantity of RHR, value of WSR (R87). -/
def State.frameData (s : State) : Word := be16 (s.bufAt 4) (s.bufAt 5)

/-- The 5 bytes of an exception reply (R86). -/
def State.exceptionReply (s : State) (f e : Byte) : List Byte := withCrc [s.cfg.slaveAddr, f ||| 0x80#8, e]

/-- The outcome of the completed frame BUF[0..LEN-1], first failing test first (R226). -/
def State.frameOutcome (s : State) : FrameOutcome :=
  if s.len < 4 then .droppedLength
  else if s.bufAt 0 ≠ s.cfg.slaveAddr then .droppedAddress
  else if crc16 (s.buf.take (s.len - 2)) ≠ le16 (s.bufAt (s.len - 2)) (s.bufAt (s.len - 1)) then .droppedCrc
  else if s.bufAt 1 = 0x03#8 then
    if s.cfg.count < s.frameAddress.toNat + s.frameData.toNat then .readRejected (s.exceptionReply 0x03#8 0x02#8)
    else if maxQty s.caps < s.frameData.toNat then .readRejected (s.exceptionReply 0x03#8 0x02#8)
    else
      .readData
        (withCrc
          ([s.cfg.slaveAddr, 0x03#8, BitVec.ofNat 8 (2 * s.frameData.toNat)] ++
            (List.range s.frameData.toNat).flatMap fun k =>
              [hiByte (Memory.read s.hr (s.frameAddress.toNat + k)),
                loByte (Memory.read s.hr (s.frameAddress.toNat + k))]))
  else if s.bufAt 1 = 0x06#8 then
    if s.cfg.count ≤ s.frameAddress.toNat then .writeRejected (s.exceptionReply 0x06#8 0x02#8)
    else .writeEcho (withCrc (s.buf.take (s.len - 2)))
  else .illegalFunction (s.exceptionReply (s.bufAt 1) 0x01#8)

/-- HR after the frame has been handled: one cell written by a WSR that is not rejected, else HR as it was (R31, R209). -/
def State.frameTable (s : State) : Memory :=
  match s.frameOutcome with
  | .writeEcho _ => Memory.write s.hr s.frameAddress.toNat s.frameData
  | .droppedLength => s.hr
  | .droppedAddress => s.hr
  | .droppedCrc => s.hr
  | .illegalFunction _ => s.hr
  | .readRejected _ => s.hr
  | .writeRejected _ => s.hr
  | .readData _ => s.hr

end Sys2Proof.Machine
end

