-- ==== Sys2Proof/Safety.lean ====
section
/-! DEFINITION. What counts as a state of the block and as a safe step, in the terms the statements use
(spec/10_state.md R46, spec/00_scope.md R10, spec/70_reset_and_hazards.md R263). -/

namespace Sys2Proof.Machine

open Sys2Proof

/-- The invariant: the parameters are legal, BUF has FRAME_CAP cells, LEN does not exceed them, T_LAST of a frame under assembly is no
later than the clock, nothing is under assembly before the first POLL step since reset, and HR is a table of COUNT cells in
canonical form. -/
structure State.Inv (s : State) : Prop where
  parameters : s.parametersLegal = true
  bufCells : s.buf.length = s.caps.frameCap
  lenBound : s.len ≤ s.caps.frameCap
  lastByteTime : 0 < s.len → s.tLast ≤ s.now
  idleBeforeFirstPoll : s.phase ≠ .polled → s.len = 0
  table : Memory.wf s.cfg.count s.hr = true

/-- The environment keeps its duties in its next event (R263, R261): a poll comes after CFG has been supplied and does not run the clock
backwards, a write stays inside the table (log entry 5), and a configuration is legal and comes before the first POLL step since
reset. -/
def HostEvent.dutiful (e : HostEvent) (s : State) : Bool :=
  match e with
  | .rx _ => true
  | .poll t => s.cfgSupplied && decide (s.now ≤ t)
  | .hostWrite i _ => decide (i < s.cfg.count)
  | .reset => true
  | .configure cfg => s.cfgOpen && (capsLegal s.caps && cfgLegal cfg)

/-- The next event, if there is one, keeps the environment's duties. -/
def State.hostDutiful (s : State) : Bool :=
  match s.host with
  | [] => true
  | e :: _ => e.dutiful s

/-- The state the silence test of the step sees when the next event is POLL t and `rest` are the events after it. -/
def State.atTest (s : State) (t : Nat) (rest : List HostEvent) : State := (s.withHost rest).afterCollect t

/-- The next event is POLL t, with `rest` after it; CFG has been supplied, the parameters are legal and the clock does not run
backwards: the POLL step happens. -/
def State.polls (s : State) (t : Nat) (rest : List HostEvent) : Prop :=
  s.host = .poll t :: rest ∧ s.cfgSupplied = true ∧ s.parametersLegal = true ∧ s.now ≤ t

end Sys2Proof.Machine
end

