-- ==== Sys2Proof/Certificates/Slice0/Obligations.lean ====
section
/-! DEFINITION. The statements for the provers.  Each names in its docstring the rules of spec/ it formalises. -/

open Sys2Proof Sys2Proof.Machine

/-! ## The CRC-16 routine -/

/-- CRC16 over known byte strings (R195; spec/95_test_vectors.md section 2). -/
def Obligations.CrcOfKnownStrings : Prop :=
  crc16 [] = 0xFFFF#16 ∧
  crc16 [0x00#8] = 0x40BF#16 ∧
  crc16 [0x01#8] = 0x807E#16 ∧
  crc16 [0xFF#8, 0xFF#8] = 0x0000#16 ∧
  crc16 [0x01#8, 0x03#8, 0x00#8, 0x00#8, 0x00#8, 0x02#8] = 0x0BC4#16 ∧
  crc16 [0x31#8, 0x32#8, 0x33#8, 0x34#8, 0x35#8, 0x36#8, 0x37#8, 0x38#8, 0x39#8] = 0x4B37#16

/-- CRC_BIT bit by bit (R197): bit i of the result is bit i+1 of ACC, zero entering bit 15, and when bit 0 of ACC was 1 the bits 15, 13
and 0 are inverted. -/
def Obligations.CrcBitIsAShiftRegisterWithThreeTaps : Prop :=
  ∀ (acc : Word) (i : Nat), i < 16 →
    (crcBit acc).getLsbD i =
      ((if i = 15 then false else acc.getLsbD (i + 1)) ^^
        (acc.getLsbD 0 && decide (i = 15 ∨ i = 13 ∨ i = 0)))

/-- R199, its three parts, which the spec marks as derived from R195 to R197.  (a) A byte sequence with its checksum appended low byte first has checksum zero.  (b) A zero accumulator stays
zero under a zero byte.  (c) CRC_BYTE is a bijection on ACC for a fixed byte, and CRC16 is affine over exclusive-or on sequences of
one length. -/
def Obligations.CrcResidueZeroBijectiveAndAffine : Prop :=
  (∀ bytes : List Byte, crc16 (bytes ++ [loByte (crc16 bytes), hiByte (crc16 bytes)]) = 0x0000#16) ∧
  crcByte 0x0000#16 0x00#8 = 0x0000#16 ∧
  (∀ b : Byte, Function.Bijective fun acc => crcByte acc b) ∧
  (∀ a b c : List Byte, a.length = b.length → b.length = c.length →
    crc16 a ^^^ crc16 b ^^^ crc16 c =
      crc16 (List.zipWith (· ^^^ ·) (List.zipWith (· ^^^ ·) a b) c))

/-! ## Decoding and encoding -/

/-- Frames written out byte by byte in the spec decode to the requests they stand for (R82, R89; spec/95_test_vectors.md sections 4 to 7). -/
def Obligations.WrittenOutFramesDecode : Prop :=
  decode 0x01#8 [0x01#8, 0x03#8, 0x00#8, 0x00#8, 0x00#8, 0x02#8, 0xC4#8, 0x0B#8] 8 = .ok (.rhr 0x0000#16 0x0002#16) ∧
  decode 0x01#8 [0x01#8, 0x06#8, 0x00#8, 0x02#8, 0xAB#8, 0xCD#8, 0x96#8, 0xAF#8] 8 = .ok (.wsr 0x0002#16 0xABCD#16) ∧
  decode 0x01#8 [0x01#8, 0x04#8, 0x00#8, 0x00#8, 0x00#8, 0x01#8, 0x31#8, 0xCA#8] 8 = .ok (.illf04 0x04#8) ∧
  decode 0x01#8 [0x01#8, 0x11#8, 0xC0#8, 0x2C#8] 4 = .ok (.illf10 0x11#8) ∧
  decode 0x01#8 [0x01#8, 0x83#8, 0x41#8, 0x81#8] 4 = .ok (.illf80 0x83#8) ∧
  decode 0x01#8 [0x01#8, 0x00#8, 0x00#8, 0x20#8] 4 = .ok (.illf00 0x00#8) ∧
  decode 0x01#8 [0x02#8, 0x03#8, 0x00#8, 0x00#8, 0x00#8, 0x02#8, 0xC4#8, 0x38#8] 8 = .error .otherAddress ∧
  decode 0x01#8 [0x01#8, 0x03#8, 0x00#8, 0x00#8, 0x00#8, 0x02#8, 0x0B#8, 0xC4#8] 8 = .error .badCrc ∧
  decode 0x01#8 [0x01#8, 0x03#8, 0x00#8] 3 = .error .tooShort

/-- The eleven patterns of the opcode table, as (mask, match), do not overlap and together match all 256 function codes; RHR and WSR are
reached by 0x03 and 0x06 alone, and every other code by an ILLF row that carries it (R90). -/
def Obligations.OpcodeRowsAreDisjointAndCoverAllCodes : Prop :=
  ∀ f : Byte,
    (([(0xFF#8, 0x03#8), (0xFF#8, 0x06#8), (0x80#8, 0x80#8), (0xC0#8, 0x40#8), (0xE0#8, 0x20#8), (0xF0#8, 0x10#8), (0xF8#8, 0x08#8),
        (0xFE#8, 0x00#8), (0xFF#8, 0x02#8), (0xFE#8, 0x04#8), (0xFF#8, 0x07#8)] : List (Byte × Byte)).filter
      fun r => f &&& r.1 == r.2).length = 1 ∧
    (f ≠ 0x03#8 → f ≠ 0x06#8 → (illegalFunctionRow f).wellFormed = true ∧ (illegalFunctionRow f).func = f)

/-- DECODE AND ENCODE AGREE (R81, R82, R83, R93): the frame of a well-formed request to slave `addr`, with any stale bytes after it in the buffer,
decodes to that request, every operand and function code at every value; and so does the longer frame with any extra payload under a
good CRC. -/
def Obligations.EncodedRequestsDecodeToThemselves : Prop :=
  ∀ (i : Instr) (addr : Byte) (extra stale : List Byte), i.wellFormed = true →
    decode addr (encode addr i ++ stale) (encode addr i).length = .ok i ∧
    decode addr (request addr i.func (i.payload ++ extra) ++ stale) (request addr i.func (i.payload ++ extra)).length = .ok i

/-- R89: the function code of a valid frame, all 8 bits and nothing else, selects the request: 0x03 is RHR, 0x06 is WSR and each of the
other 254 values is ILLF, answered as the row of the opcode table that the code matches. -/
def Obligations.FunctionCodeAloneSelectsRequest : Prop :=
  ∀ (addr : Byte) (buf : List Byte) (n : Nat), 4 ≤ n → n ≤ buf.length → 6 ≤ buf.length → buf.getD 0 0 = addr →
    crc16 (buf.take (n - 2)) = receivedCrc buf n →
    ∃ i, decode addr buf n = .ok i ∧ i.wellFormed = true ∧ i.func = buf.getD 1 0 ∧
      ((∃ start qty, i = .rhr start qty) ↔ buf.getD 1 0 = 0x03#8) ∧
      ((∃ reg val, i = .wsr reg val) ↔ buf.getD 1 0 = 0x06#8)

/-- R87, with the spec's decision D12 (log entry 7) for register-access frames of 4 to 7 bytes: the operands are the big-endian fields at indices 2
to 5 whatever the frame's length, the received CRC is the low-byte-first field at
the frame's end, and the byte count of a read that is performed is 2 * q without truncation. -/
def Obligations.OperandsAreUnsignedFieldsAtFixedIndices : Prop :=
  (∀ (addr : Byte) (buf : List Byte) (n : Nat) (start qty : Word), decode addr buf n = .ok (.rhr start qty) →
    start.toNat = 256 * (buf.getD 2 0).toNat + (buf.getD 3 0).toNat ∧
    qty.toNat = 256 * (buf.getD 4 0).toNat + (buf.getD 5 0).toNat) ∧
  (∀ (addr : Byte) (buf : List Byte) (n : Nat) (reg val : Word), decode addr buf n = .ok (.wsr reg val) →
    reg.toNat = 256 * (buf.getD 2 0).toNat + (buf.getD 3 0).toNat ∧
    val.toNat = 256 * (buf.getD 4 0).toNat + (buf.getD 5 0).toNat) ∧
  (∀ (addr : Byte) (buf : List Byte) (n : Nat) (i : Instr), decode addr buf n = .ok i →
    (crc16 (buf.take (n - 2))).toNat = (buf.getD (n - 2) 0).toNat + 256 * (buf.getD (n - 1) 0).toNat) ∧
  (∀ (caps : Capacities) (qty : Word), capsLegal caps = true → qty.toNat ≤ maxQty caps →
    (byteCount qty).toNat = 2 * qty.toNat)

/-- R133 taken to every byte (an inference from R195 to R197 and R133, not a sentence of the spec): a request frame with one byte changed, at any place, is not decoded by the slave it was sent to. -/
def Obligations.OneCorruptedByteIsNeverAccepted : Prop :=
  ∀ (addr f : Byte) (payload stale : List Byte) (k : Nat) (b : Byte), k < (request addr f payload).length →
    (request addr f payload).getD k 0 ≠ b →
    ∀ i, decode addr ((request addr f payload).set k b ++ stale) (request addr f payload).length ≠ .ok i

/-! ## The requests: results and completion -/

/-- R152: a read in range and within the response capacity answers SLAVE_ADDR, 0x03, 2q, then HR[s] to HR[s+q-1] in ascending order, each high
byte first, then the CRC low byte first; the reply is 5 + 2q bytes and fits the response buffer.  Everything but TX is unchanged.
(That q = 0 succeeds is the spec's decision D23; it falls under the same clause.) -/
def Obligations.ReadRepliesWithCellsInAddressOrder : Prop :=
  ∀ (start qty : Word) (s : State), capsLegal s.caps = true → start.toNat + qty.toNat ≤ s.cfg.count →
    qty.toNat ≤ maxQty s.caps →
    ∃ reply : List Byte,
      exec (.rhr start qty) s = .next { s with tx := s.tx ++ reply } ∧
      reply =
        withCrc
          ([s.cfg.slaveAddr, 0x03#8, BitVec.ofNat 8 (2 * qty.toNat)] ++
            (List.range qty.toNat).flatMap fun k =>
              [hiByte (Memory.read s.hr (start.toNat + k)), loByte (Memory.read s.hr (start.toNat + k))]) ∧
      reply.length = 5 + 2 * qty.toNat ∧ reply.length ≤ s.caps.respCap ∧ 2 * qty.toNat < 256

/-- R153: a read whose sum s + q exceeds COUNT is answered with exception 0x02 as a whole, and nothing else happens.  That the sum is exact, so
that s = 0xFFFF with q = 2 is out of range, is the spec's decision D14 (R55, log entry 7). -/
def Obligations.ReadOutOfRangeRaisesIllegalDataAddress : Prop :=
  ∀ (start qty : Word) (s : State), capsLegal s.caps = true → s.cfg.count < start.toNat + qty.toNat →
    exec (.rhr start qty) s = .next { s with tx := s.tx ++ withCrc [s.cfg.slaveAddr, 0x83#8, 0x02#8] }

/-- R154: a read in range of more registers than a response can carry is answered with exception 0x02 (the spec's decision D9, log entry 7). -/
def Obligations.ReadAboveResponseCapacityRaisesIllegalDataAddress : Prop :=
  ∀ (start qty : Word) (s : State), capsLegal s.caps = true → start.toNat + qty.toNat ≤ s.cfg.count →
    maxQty s.caps < qty.toNat →
    exec (.rhr start qty) s = .next { s with tx := s.tx ++ withCrc [s.cfg.slaveAddr, 0x83#8, 0x02#8] }

/-- R165 with R168.  A write in range sets HR[a] to v and nothing else of the table, and answers BUF[0..LEN-3] with a CRC computed over those
bytes; everything but HR and TX is unchanged.  A write at an address not below COUNT is answered with exception 0x02, and nothing
else happens.  That the echo has LEN - 2 bytes for frames of another length than 8 is the spec's decision D13 (log entry 7); that the
table stays in canonical form is the model's own (log entry 9). -/
def Obligations.WriteStoresOneCellAndEchoesOrIsRejected : Prop :=
  ∀ (reg val : Word) (s : State), s.Inv →
    (reg.toNat < s.cfg.count →
      ∃ hr : Memory,
        exec (.wsr reg val) s = .next { s with hr := hr, tx := s.tx ++ withCrc (s.buf.take (s.len - 2)) } ∧
        Memory.read hr reg.toNat = val ∧
        (∀ a, a ≠ reg.toNat → Memory.read hr a = Memory.read s.hr a) ∧
        Memory.wf s.cfg.count hr = true) ∧
    (s.cfg.count ≤ reg.toNat →
      exec (.wsr reg val) s = .next { s with tx := s.tx ++ withCrc [s.cfg.slaveAddr, 0x86#8, 0x02#8] })

/-- R169, which the spec marks as derived: the CRC of a write's echo is computed afresh, and the reply is byte for byte the request, for every frame that decodes to a write
in range. -/
def Obligations.WriteReplyEqualsRequestFrame : Prop :=
  ∀ (reg val : Word) (s : State), s.Inv → decode s.cfg.slaveAddr s.buf s.len = .ok (.wsr reg val) →
    reg.toNat < s.cfg.count →
    ∃ t, exec (.wsr reg val) s = .next t ∧ t.tx = s.tx ++ s.buf.take s.len

/-- R186: each of the nine ILLF rows is answered with SLAVE_ADDR, f | 0x80, 0x01 and the CRC, whatever its function code; HR and everything
but TX are unchanged. -/
def Obligations.IllegalFunctionRowsAnswerWithCodeOne : Prop :=
  ∀ (f : Byte) (s : State), capsLegal s.caps = true →
    ∀ i ∈ ([.illf80 f, .illf40 f, .illf20 f, .illf10 f, .illf08 f, .illf00 f, .illf02 f, .illf04 f, .illf07 f] : List Instr),
      exec i s = .next { s with tx := s.tx ++ withCrc [s.cfg.slaveAddr, f ||| 0x80#8, 0x01#8] }

/-- R136 with R150, R151 and R166: a frame that passed the three tests runs RHR when its function code is 0x03, WSR when it is 0x06, on the fields
at indices 2 to 5, and with any other code is answered with exception 0x01 carrying that code, with no table access.  That frames of 4
to 7 bytes run on these fields too is the spec's decision D12 (log entry 7). -/
def Obligations.ValidFrameIsRoutedByItsFunctionCode : Prop :=
  ∀ s : State, s.Inv → 4 ≤ s.len → s.bufAt 0 = s.cfg.slaveAddr →
    crc16 (s.buf.take (s.len - 2)) = receivedCrc s.buf s.len →
    (s.bufAt 1 = 0x03#8 → handleFrame s = exec (.rhr s.frameAddress s.frameData) s) ∧
    (s.bufAt 1 = 0x06#8 → handleFrame s = exec (.wsr s.frameAddress s.frameData) s) ∧
    (s.bufAt 1 ≠ 0x03#8 → s.bufAt 1 ≠ 0x06#8 →
      handleFrame s = .next { s with tx := s.tx ++ withCrc [s.cfg.slaveAddr, s.bufAt 1 ||| 0x80#8, 0x01#8] })

/-- R180: the Exception Responder adds SLAVE_ADDR, the function code with bit 7 set and its other bits unchanged, the exception code and the CRC low
byte first, to TX, and changes nothing else; IllegalFunction is code 0x01 and IllegalDataAddress code 0x02. -/
def Obligations.ExceptionSavesNothingAndSendsFiveBytes : Prop :=
  ∀ (f e : Byte) (s : State), capsLegal s.caps = true →
    (∃ g c,
      raiseException f e s =
        .next { s with tx := s.tx ++ [s.cfg.slaveAddr, g, e, loByte c, hiByte c] } ∧
      c = crc16 [s.cfg.slaveAddr, g, e] ∧ g.getLsbD 7 = true ∧ ∀ i, i < 7 → g.getLsbD i = f.getLsbD i) ∧
    raiseIllegalFunction f s = raiseException f 0x01#8 s ∧
    raiseIllegalDataAddress f s = raiseException f 0x02#8 s

/-! ## The requests: frames, ordering, isolation -/

/-- The frame of every request (R31, R209): no request changes the parameters, BUF, LEN, T_LAST, RXQ, the clock or the pending events; none but WSR changes
a cell, and WSR changes at most the cell it names; TX keeps what it had and gains one reply whose own checksum is zero. -/
def Obligations.RequestsTouchOnlyOneCellAndTx : Prop :=
  ∀ (i : Instr) (s t : State), Memory.wf s.cfg.count s.hr = true → exec i s = .next t →
    t.caps = s.caps ∧ t.cfg = s.cfg ∧ t.phase = s.phase ∧ t.buf = s.buf ∧ t.len = s.len ∧ t.tLast = s.tLast ∧
    t.rxq = s.rxq ∧ t.now = s.now ∧ t.host = s.host ∧ t.resets = s.resets ∧
    (∃ reply, t.tx = s.tx ++ reply ∧ crc16 reply = 0x0000#16 ∧ 2 ≤ reply.length ∧ reply.length ≤ s.caps.respCap) ∧
    (∀ a, (∀ reg val, i = .wsr reg val → a ≠ reg.toNat) → Memory.read t.hr a = Memory.read s.hr a)

/-- R209: RHR never changes HR and answers nothing that is not read from the cells it names; two tables that agree on those cells give the same
reply. -/
def Obligations.ReadDependsOnItsCellsOnly : Prop :=
  ∀ (start qty : Word) (s t : State) (hr : Memory),
    (∀ k, k < qty.toNat → Memory.read hr (start.toNat + k) = Memory.read s.hr (start.toNat + k)) →
    exec (.rhr start qty) s = .next t →
    t.hr = s.hr ∧ exec (.rhr start qty) { s with hr := hr } = .next { t with hr := hr }

/-- R59, which the spec marks as derived: a value written by WSR is the value a later RHR of that cell sends, when nobody wrote the cell in between. -/
def Obligations.WrittenValueIsReadBack : Prop :=
  ∀ (reg val : Word) (s t u : State), s.Inv → exec (.wsr reg val) s = .next t → reg.toNat < s.cfg.count →
    u.caps = s.caps → u.cfg = s.cfg → Memory.read u.hr reg.toNat = Memory.read t.hr reg.toNat →
    exec (.rhr reg 0x0001#16) u =
      .next { u with tx := u.tx ++ withCrc [u.cfg.slaveAddr, 0x03#8, 0x02#8, hiByte val, loByte val] }

/-- R34 with R21 and D11: stale bytes influence nothing but register-access frames of 4 to 7 bytes: with the first LEN bytes of BUF alike, the
handling of any other frame is the same, one of fewer than 4 bytes among them. -/
def Obligations.StaleBytesDoNotInfluenceFullFrames : Prop :=
  ∀ (s : State) (buf : List Byte), s.Inv → buf.length = s.buf.length → buf.take s.len = s.buf.take s.len → 0 < s.len →
    (s.len < 4 ∨ 8 ≤ s.len ∨ (s.bufAt 1 ≠ 0x03#8 ∧ s.bufAt 1 ≠ 0x06#8)) →
    ∃ t, handleFrame s = .next t ∧ handleFrame { s with buf := buf } = .next { t with buf := buf }

/-! ## The POLL step -/

/-- A STEP RUNS THE DECODED INSTRUCTION (R110, R130): when the next event is POLL t and the silence test succeeds on the state that has collected
every waiting byte, and that state's frame decodes to `i`, the step is exec of `i` there, followed by the clear.  With nothing waiting
in RXQ that state is the state before, with the clock, the phase and the event list moved on. -/
def Obligations.StepRunsTheDecodedRequest : Prop :=
  ∀ (s : State) (t : Nat) (rest : List HostEvent) (i : Instr), s.polls t rest →
    (s.rxq = [] → s.atTest t rest = { s with host := rest, now := t, phase := .polled }) ∧
    ((s.atTest t rest).silent t = true →
      decode (s.atTest t rest).cfg.slaveAddr (s.atTest t rest).buf (s.atTest t rest).len = .ok i →
      step s = endOfFrame (exec i (s.atTest t rest)))

/-- R110, first stage, with R111 and R112: the whole of RXQ is consumed in order; bytes are appended after the LEN bytes present while there is room, LEN grows
by their number up to FRAME_CAP, the other cells of BUF keep their bytes, bytes beyond FRAME_CAP are lost, and T_LAST becomes now exactly when a
byte was appended (that a discarded byte does not stamp is the spec's decision D10, log entry 7).  Nothing else changes. -/
def Obligations.CollectorAppendsInOrderUpToCapacity : Prop :=
  ∀ (s : State) (t : Nat), s.buf.length = s.caps.frameCap → s.len ≤ s.caps.frameCap →
    s.collect t =
      { s with
        rxq := []
        buf := s.buf.take s.len ++ s.rxq.take (s.caps.frameCap - s.len) ++
          s.buf.drop (s.len + (s.rxq.take (s.caps.frameCap - s.len)).length)
        len := min (s.len + s.rxq.length) s.caps.frameCap
        tLast := if s.rxq ≠ [] ∧ s.len < s.caps.frameCap then t else s.tLast }

/-- R111, R115: bytes that arrive in two pieces, with no frame completed between them, leave the same BUF and LEN as bytes that arrive in one. -/
def Obligations.CollectionInPiecesBuildsTheSameFrame : Prop :=
  ∀ (s : State) (t u : Nat) (first second : List Byte),
    ((s.collectBytes t first).collectBytes u second).buf = (s.collectBytes u (first ++ second)).buf ∧
    ((s.collectBytes t first).collectBytes u second).len = (s.collectBytes u (first ++ second)).len

/-- R113 (strictness is the spec's decision D6, one clock sample per step D4; log entry 7): at the silence test the elapsed time of a frame under assembly is never negative, the frame is handled exactly when LEN > 0 and the elapsed
time is strictly more than T_SILENCE, and a step that appended a byte has elapsed time 0 and completes no frame. -/
def Obligations.SilenceTestIsStrictAndNeverFiresOnArrival : Prop :=
  ∀ (s : State) (t : Nat) (rest : List HostEvent), s.Inv → s.polls t rest →
    (0 < (s.atTest t rest).len → (s.atTest t rest).tLast ≤ t) ∧
    (0 < (s.atTest t rest).len → s.cfg.tSilence < t - (s.atTest t rest).tLast →
      step s = endOfFrame (handleFrame (s.atTest t rest))) ∧
    (¬ (0 < (s.atTest t rest).len ∧ s.cfg.tSilence < t - (s.atTest t rest).tLast) → step s = .next (s.atTest t rest)) ∧
    (s.rxq ≠ [] → s.len < s.caps.frameCap →
      (s.atTest t rest).tLast = t ∧ 0 < (s.atTest t rest).len ∧ step s = .next (s.atTest t rest))

/-- R110, corner case: a POLL step with nothing waiting and nothing under assembly changes nothing of the block.  That a step with no event pending
answers the same state is the model's own (log entry 4): the spec has no such step. -/
def Obligations.IdleBlockStaysIdle : Prop :=
  (∀ s : State, s.host = [] → step s = .next s) ∧
  (∀ (s : State) (t : Nat) (rest : List HostEvent), s.polls t rest → s.rxq = [] → s.len = 0 →
    step s = .next { s with host := rest, now := t, phase := .polled })

/-- R114 with R21 (that the clear keeps the cells is the spec's decision D11, log entry 7): whatever the outcome of the completed frame, LEN is 0 after the step, and the clear and the handling leave every cell of BUF and T_LAST
as they were at the silence test. -/
def Obligations.CompletedFrameIsAlwaysCleared : Prop :=
  ∀ (s : State) (t : Nat) (rest : List HostEvent), s.Inv → s.polls t rest → (s.atTest t rest).silent t = true →
    ∃ u, step s = .next u ∧ u.len = 0 ∧ u.buf = (s.atTest t rest).buf ∧ u.tLast = (s.atTest t rest).tLast ∧
      u.rxq = [] ∧ u.now = t

/-- R223: a completed frame that is shorter than 4 bytes, or not for this slave, or fails its CRC, leaves no trace but the cleared buffer, and a byte that
arrives when the buffer is full leaves none at all.  That such a byte does not stamp T_LAST is the spec's decision D10, and that the clear
keeps the cells of BUF its decision D11 (log entry 7). -/
def Obligations.DroppedFramesLeaveNoTrace : Prop :=
  (∀ (s : State) (t : Nat) (rest : List HostEvent), s.Inv → s.polls t rest → (s.atTest t rest).silent t = true →
    ((s.atTest t rest).len < 4 ∨ (s.atTest t rest).bufAt 0 ≠ s.cfg.slaveAddr ∨
      crc16 ((s.atTest t rest).buf.take ((s.atTest t rest).len - 2)) ≠
        receivedCrc (s.atTest t rest).buf (s.atTest t rest).len) →
    step s = .next { s.atTest t rest with len := 0 }) ∧
  (∀ (s : State) (t : Nat) (b : Byte), s.caps.frameCap ≤ s.len → s.collectByte t b = s)

/-- R183, R132, R133: a POLL step that transmits anything handled a frame of at least 4 bytes, addressed to this slave, with a good CRC; a frame that
failed one of the tests gets no reply of any kind. -/
def Obligations.OnlyValidFramesAreAnswered : Prop :=
  ∀ (s u : State) (t : Nat) (rest : List HostEvent), s.Inv → s.polls t rest → step s = .next u → u.tx ≠ s.tx →
    (s.atTest t rest).silent t = true ∧ 4 ≤ (s.atTest t rest).len ∧ (s.atTest t rest).bufAt 0 = s.cfg.slaveAddr ∧
    crc16 ((s.atTest t rest).buf.take ((s.atTest t rest).len - 2)) =
      receivedCrc (s.atTest t rest).buf (s.atTest t rest).len

/-- R226, with R224, which the spec marks as derived: the step that completes a frame has exactly the outcome the closed list gives it, first failing test first: TX gains the bytes of that
outcome, none for a drop, HR changes only by an accepted write, and LEN is cleared.  Rests on the spec's decisions D9 (above the response
capacity), D11 (the clear), D12 (operands of short frames), D13 (the echo), D14 (the exact sum) and D23 (quantity 0), log entry 7. -/
def Obligations.CompletedFrameHasTheListedOutcome : Prop :=
  ∀ (s : State) (t : Nat) (rest : List HostEvent), s.Inv → s.polls t rest → (s.atTest t rest).silent t = true →
    step s =
      .next
        { s.atTest t rest with
          len := 0
          tx := s.tx ++ (s.atTest t rest).frameOutcome.result.sent
          hr := (s.atTest t rest).frameTable }

/-- R46, which the spec marks as derived: a POLL step leaves LEN within FRAME_CAP; either no cell of HR changes or exactly the cell of an accepted WSR may; TX gains zero or one response; and
a response is 5 to RESP_CAP bytes long, but for the echo of a WSR frame shorter than 8 bytes, which has the frame's length, at
least 4. -/
def Obligations.PollWritesOneCellAndSendsOneResponseAtMost : Prop :=
  ∀ (s u : State) (t : Nat) (rest : List HostEvent), s.Inv → s.polls t rest → step s = .next u →
    u.len ≤ u.caps.frameCap ∧
    (u.hr = s.hr ∨
      ∃ reg val, decode s.cfg.slaveAddr (s.atTest t rest).buf (s.atTest t rest).len = .ok (.wsr reg val) ∧
        reg.toNat < s.cfg.count ∧ ∀ a, a ≠ reg.toNat → Memory.read u.hr a = Memory.read s.hr a) ∧
    ∃ response, u.tx = s.tx ++ response ∧
      (response = [] ∨ (5 ≤ response.length ∧ response.length ≤ s.caps.respCap) ∨
        (4 ≤ response.length ∧ response.length = (s.atTest t rest).len ∧ (s.atTest t rest).len < 8 ∧
          ∃ reg val, decode s.cfg.slaveAddr (s.atTest t rest).buf (s.atTest t rest).len = .ok (.wsr reg val)))

/-! ## The environment's events and the whole machine -/

/-- R45, R260 (the spec's decision D17; BUF and T_LAST take free values, log entry 3): the reset event empties the frame under assembly and TX, leaves
HR and RXQ alone, and keeps BUF at FRAME_CAP cells.  The model's own: the fields of CFG keep their values, which no POLL step uses before
CFG is supplied anew (log entry 14), the clock is 0 and the phase is unconfigured (log entry 15). -/
def Obligations.ResetEventClearsFrameAndTx : Prop :=
  ∀ (s : State) (rest : List HostEvent), s.host = .reset :: rest →
    ∃ u, step s = .next u ∧ u.len = 0 ∧ u.tx = [] ∧ u.hr = s.hr ∧ u.rxq = s.rxq ∧ u.caps = s.caps ∧ u.cfg = s.cfg ∧
      u.buf.length = s.caps.frameCap ∧ u.phase = .unconfigured ∧ u.now = 0 ∧ u.host = rest

/-- R60, R43: a write by the environment between two steps changes the cell it names and no other, and nothing else.  That one at or above COUNT is
refused is the model's own, read from R54 (log entry 5). -/
def Obligations.HostWriteChangesOneCell : Prop :=
  ∀ (s : State) (i : Nat) (v : Word) (rest : List HostEvent), s.Inv → s.host = .hostWrite i v :: rest →
    (i < s.cfg.count →
      ∃ hr : Memory, step s = .next { s with host := rest, hr := hr } ∧ Memory.read hr i = v ∧
        ∀ a, a ≠ i → Memory.read hr a = Memory.read s.hr a) ∧
    (s.cfg.count ≤ i → step s = .refused .hostWriteOutsideTable)

/-- R40 and R94: bytes the environment sends join the transport's queue behind those waiting, and nothing else changes. -/
def Obligations.ReceivedBytesQueueInOrder : Prop :=
  ∀ (s : State) (bytes : List Byte) (rest : List HostEvent), s.host = .rx bytes :: rest →
    step s = .next { s with host := rest, rxq := s.rxq ++ bytes }

/-- R30, R261, R262 (the spec's decisions D16, D26): a legal configuration is taken before the first POLL step since reset and refused after it; an
illegal one, be it by CFG or by the capacities, is refused when it is supplied.  That the cells below the new COUNT keep their values is the
model's own (log entry 14). -/
def Obligations.ConfigurationIsLegalAndComesBeforePolling : Prop :=
  ∀ (s : State) (cfg : Cfg) (rest : List HostEvent), s.host = .configure cfg :: rest →
    (s.phase ≠ .polled → capsLegal s.caps = true → cfgLegal cfg = true →
      ∃ hr : Memory, step s = .next { s with host := rest, cfg := cfg, hr := hr, phase := .configured } ∧
        ∀ a, a < cfg.count → Memory.read hr a = Memory.read s.hr a) ∧
    (s.phase ≠ .polled → capsLegal s.caps = false ∨ cfgLegal cfg = false → step s = .refused .illegalConfiguration) ∧
    (s.phase = .polled → step s = .refused .reconfiguredWithoutReset)

/-- R261, R262 (the spec's decision D16): a POLL step on a block whose configuration is missing is refused, in particular one that follows a reset with
no configuration in between; with a legal one in between the reset, the configuration and the POLL step all complete, on the values
supplied. -/
def Obligations.PollNeedsConfigurationSinceReset : Prop :=
  ∀ (s : State) (t : Nat) (rest : List HostEvent),
    (s.host = .poll t :: rest → s.phase = .unconfigured → step s = .refused .missingConfiguration) ∧
    (s.host = .reset :: .poll t :: rest → ∃ u, step s = .next u ∧ step u = .refused .missingConfiguration) ∧
    (∀ cfg : Cfg, s.host = .reset :: .configure cfg :: .poll t :: rest → capsLegal s.caps = true → cfgLegal cfg = true →
      ∃ u v w, step s = .next u ∧ step u = .next v ∧ step v = .next w ∧ w.cfg = cfg ∧ w.caps = s.caps ∧ w.phase = .polled ∧
        w.host = rest)

/-- R30, R261 (the spec's decision D26): the capacities never change, and CFG changes by the environment's configuration alone, which is possible only
between a reset and the first POLL step after it.  Which events move the phase is the model's own account of that order (log entry 15). -/
def Obligations.ConfigurationIsConstantFromFirstPollToReset : Prop :=
  ∀ s t : State, step s = .next t →
    t.caps = s.caps ∧
    (t.cfg = s.cfg ∨ ∃ cfg rest, s.host = .configure cfg :: rest ∧ t.cfg = cfg ∧ s.phase ≠ .polled ∧ cfgLegal cfg = true) ∧
    (s.phase = .polled → t.phase = .polled ∨ ∃ rest, s.host = .reset :: rest) ∧
    (s.phase = .unconfigured → t.phase = .unconfigured ∨ ∃ cfg rest, s.host = .configure cfg :: rest) ∧
    (s.phase = .configured → t.phase = .unconfigured → ∃ rest, s.host = .reset :: rest)

/-- The first request after any state that meets the invariant (log entry 6; the model's own way of loading a request): a table word placed by
withFetchWord decodes to a request with that function code, and the very next step runs it. -/
def Obligations.PlacedTableWordRunsNext : Prop :=
  ∀ (s : State) (w : Nat), s.Inv → w < 256 →
    ∃ i u, decodeTableWord 8 w = some i ∧ i.func = BitVec.ofNat 8 w ∧ u.len = 8 ∧ u.hr = s.hr ∧ u.tx = s.tx ∧ u.cfg = s.cfg ∧
      step (s.withFetchWord 8 w) = endOfFrame (exec i u)

/-- R45 (the spec's decision D17): right after reset LEN is 0 and TX is empty.  That no cell of HR is listed is the model's own (log entry 2), and so are
the parameters with which the invariant holds (log entry 1). -/
def Obligations.ResetIsIdleAndMeetsTheInvariant : Prop :=
  State.reset.len = 0 ∧ State.reset.tx = [] ∧ State.reset.hr = [] ∧ State.reset.Inv

/-- AN INVARIANT THAT EVERY STEP KEEPS (R46, R22, R24, R27, R30): from every state that meets it, reachable or not, whatever the environment's next event. -/
def Obligations.StepKeepsTheInvariant : Prop :=
  ∀ s t : State, s.Inv → step s = .next t → t.Inv

/-- R10, R224, R263 with R261, R262: from every state that meets the invariant a step of a host that keeps its duties completes, and a step of one that
does not is refused; the machine never faults, hence no access outside HR, BUF or RSP is ever made.  The refusal of a host write outside the
table is the model's own, no duty that R263 lists (log entry 5). -/
def Obligations.DutifulStepsCompleteAndNothingFaults : Prop :=
  ∀ s : State, s.Inv →
    (s.hostDutiful = true → ∃ t, step s = .next t) ∧ (s.hostDutiful = false → ∃ r, step s = .refused r)
end

