-- ==== Sys2Proof/Laws/State.lean ====
section
/-! SUPPORT. One lemma per field per named update of State, each true by rfl, so that no later proof unfolds an update. -/

namespace Sys2Proof.Machine

open Sys2Proof

@[simp] theorem State.transmit_caps (s : State) (bytes : List Byte) : (s.transmit bytes).caps = s.caps := rfl
@[simp] theorem State.transmit_cfg (s : State) (bytes : List Byte) : (s.transmit bytes).cfg = s.cfg := rfl
@[simp] theorem State.transmit_phase (s : State) (bytes : List Byte) :
    (s.transmit bytes).phase = s.phase := rfl
@[simp] theorem State.transmit_buf (s : State) (bytes : List Byte) : (s.transmit bytes).buf = s.buf := rfl
@[simp] theorem State.transmit_len (s : State) (bytes : List Byte) : (s.transmit bytes).len = s.len := rfl
@[simp] theorem State.transmit_tLast (s : State) (bytes : List Byte) : (s.transmit bytes).tLast = s.tLast := rfl
@[simp] theorem State.transmit_hr (s : State) (bytes : List Byte) : (s.transmit bytes).hr = s.hr := rfl
@[simp] theorem State.transmit_rxq (s : State) (bytes : List Byte) : (s.transmit bytes).rxq = s.rxq := rfl
@[simp] theorem State.transmit_tx (s : State) (bytes : List Byte) : (s.transmit bytes).tx = s.tx ++ bytes := rfl
@[simp] theorem State.transmit_now (s : State) (bytes : List Byte) : (s.transmit bytes).now = s.now := rfl
@[simp] theorem State.transmit_host (s : State) (bytes : List Byte) : (s.transmit bytes).host = s.host := rfl
@[simp] theorem State.transmit_resets (s : State) (bytes : List Byte) : (s.transmit bytes).resets = s.resets := rfl

@[simp] theorem State.writeCell_caps (s : State) (a : Nat) (v : Word) : (s.writeCell a v).caps = s.caps := rfl
@[simp] theorem State.writeCell_cfg (s : State) (a : Nat) (v : Word) : (s.writeCell a v).cfg = s.cfg := rfl
@[simp] theorem State.writeCell_phase (s : State) (a : Nat) (v : Word) :
    (s.writeCell a v).phase = s.phase := rfl
@[simp] theorem State.writeCell_buf (s : State) (a : Nat) (v : Word) : (s.writeCell a v).buf = s.buf := rfl
@[simp] theorem State.writeCell_len (s : State) (a : Nat) (v : Word) : (s.writeCell a v).len = s.len := rfl
@[simp] theorem State.writeCell_tLast (s : State) (a : Nat) (v : Word) : (s.writeCell a v).tLast = s.tLast := rfl
@[simp] theorem State.writeCell_hr (s : State) (a : Nat) (v : Word) :
    (s.writeCell a v).hr = Memory.write s.hr a v := rfl
@[simp] theorem State.writeCell_rxq (s : State) (a : Nat) (v : Word) : (s.writeCell a v).rxq = s.rxq := rfl
@[simp] theorem State.writeCell_tx (s : State) (a : Nat) (v : Word) : (s.writeCell a v).tx = s.tx := rfl
@[simp] theorem State.writeCell_now (s : State) (a : Nat) (v : Word) : (s.writeCell a v).now = s.now := rfl
@[simp] theorem State.writeCell_host (s : State) (a : Nat) (v : Word) : (s.writeCell a v).host = s.host := rfl
@[simp] theorem State.writeCell_resets (s : State) (a : Nat) (v : Word) : (s.writeCell a v).resets = s.resets := rfl

@[simp] theorem State.clearFrame_caps (s : State) : (s.clearFrame).caps = s.caps := rfl
@[simp] theorem State.clearFrame_cfg (s : State) : (s.clearFrame).cfg = s.cfg := rfl
@[simp] theorem State.clearFrame_phase (s : State) : (s.clearFrame).phase = s.phase := rfl
@[simp] theorem State.clearFrame_buf (s : State) : (s.clearFrame).buf = s.buf := rfl
@[simp] theorem State.clearFrame_len (s : State) : (s.clearFrame).len = 0 := rfl
@[simp] theorem State.clearFrame_tLast (s : State) : (s.clearFrame).tLast = s.tLast := rfl
@[simp] theorem State.clearFrame_hr (s : State) : (s.clearFrame).hr = s.hr := rfl
@[simp] theorem State.clearFrame_rxq (s : State) : (s.clearFrame).rxq = s.rxq := rfl
@[simp] theorem State.clearFrame_tx (s : State) : (s.clearFrame).tx = s.tx := rfl
@[simp] theorem State.clearFrame_now (s : State) : (s.clearFrame).now = s.now := rfl
@[simp] theorem State.clearFrame_host (s : State) : (s.clearFrame).host = s.host := rfl
@[simp] theorem State.clearFrame_resets (s : State) : (s.clearFrame).resets = s.resets := rfl

@[simp] theorem State.appendByte_caps (s : State) (t : Nat) (b : Byte) : (s.appendByte t b).caps = s.caps := rfl
@[simp] theorem State.appendByte_cfg (s : State) (t : Nat) (b : Byte) : (s.appendByte t b).cfg = s.cfg := rfl
@[simp] theorem State.appendByte_phase (s : State) (t : Nat) (b : Byte) :
    (s.appendByte t b).phase = s.phase := rfl
@[simp] theorem State.appendByte_buf (s : State) (t : Nat) (b : Byte) :
    (s.appendByte t b).buf = s.buf.set s.len b := rfl
@[simp] theorem State.appendByte_len (s : State) (t : Nat) (b : Byte) : (s.appendByte t b).len = s.len + 1 := rfl
@[simp] theorem State.appendByte_tLast (s : State) (t : Nat) (b : Byte) : (s.appendByte t b).tLast = t := rfl
@[simp] theorem State.appendByte_hr (s : State) (t : Nat) (b : Byte) : (s.appendByte t b).hr = s.hr := rfl
@[simp] theorem State.appendByte_rxq (s : State) (t : Nat) (b : Byte) : (s.appendByte t b).rxq = s.rxq := rfl
@[simp] theorem State.appendByte_tx (s : State) (t : Nat) (b : Byte) : (s.appendByte t b).tx = s.tx := rfl
@[simp] theorem State.appendByte_now (s : State) (t : Nat) (b : Byte) : (s.appendByte t b).now = s.now := rfl
@[simp] theorem State.appendByte_host (s : State) (t : Nat) (b : Byte) : (s.appendByte t b).host = s.host := rfl
@[simp] theorem State.appendByte_resets (s : State) (t : Nat) (b : Byte) : (s.appendByte t b).resets = s.resets := rfl

@[simp] theorem State.emptyQueue_caps (s : State) : (s.emptyQueue).caps = s.caps := rfl
@[simp] theorem State.emptyQueue_cfg (s : State) : (s.emptyQueue).cfg = s.cfg := rfl
@[simp] theorem State.emptyQueue_phase (s : State) : (s.emptyQueue).phase = s.phase := rfl
@[simp] theorem State.emptyQueue_buf (s : State) : (s.emptyQueue).buf = s.buf := rfl
@[simp] theorem State.emptyQueue_len (s : State) : (s.emptyQueue).len = s.len := rfl
@[simp] theorem State.emptyQueue_tLast (s : State) : (s.emptyQueue).tLast = s.tLast := rfl
@[simp] theorem State.emptyQueue_hr (s : State) : (s.emptyQueue).hr = s.hr := rfl
@[simp] theorem State.emptyQueue_rxq (s : State) : (s.emptyQueue).rxq = [] := rfl
@[simp] theorem State.emptyQueue_tx (s : State) : (s.emptyQueue).tx = s.tx := rfl
@[simp] theorem State.emptyQueue_now (s : State) : (s.emptyQueue).now = s.now := rfl
@[simp] theorem State.emptyQueue_host (s : State) : (s.emptyQueue).host = s.host := rfl
@[simp] theorem State.emptyQueue_resets (s : State) : (s.emptyQueue).resets = s.resets := rfl

@[simp] theorem State.notePoll_caps (s : State) (t : Nat) : (s.notePoll t).caps = s.caps := rfl
@[simp] theorem State.notePoll_cfg (s : State) (t : Nat) : (s.notePoll t).cfg = s.cfg := rfl
@[simp] theorem State.notePoll_phase (s : State) (t : Nat) : (s.notePoll t).phase = .polled := rfl
@[simp] theorem State.notePoll_buf (s : State) (t : Nat) : (s.notePoll t).buf = s.buf := rfl
@[simp] theorem State.notePoll_len (s : State) (t : Nat) : (s.notePoll t).len = s.len := rfl
@[simp] theorem State.notePoll_tLast (s : State) (t : Nat) : (s.notePoll t).tLast = s.tLast := rfl
@[simp] theorem State.notePoll_hr (s : State) (t : Nat) : (s.notePoll t).hr = s.hr := rfl
@[simp] theorem State.notePoll_rxq (s : State) (t : Nat) : (s.notePoll t).rxq = s.rxq := rfl
@[simp] theorem State.notePoll_tx (s : State) (t : Nat) : (s.notePoll t).tx = s.tx := rfl
@[simp] theorem State.notePoll_now (s : State) (t : Nat) : (s.notePoll t).now = t := rfl
@[simp] theorem State.notePoll_host (s : State) (t : Nat) : (s.notePoll t).host = s.host := rfl
@[simp] theorem State.notePoll_resets (s : State) (t : Nat) : (s.notePoll t).resets = s.resets := rfl

@[simp] theorem State.placeFrame_caps (s : State) (frame : List Byte) : (s.placeFrame frame).caps = s.caps := rfl
@[simp] theorem State.placeFrame_cfg (s : State) (frame : List Byte) : (s.placeFrame frame).cfg = s.cfg := rfl
@[simp] theorem State.placeFrame_phase (s : State) (frame : List Byte) :
    (s.placeFrame frame).phase = .polled := rfl
@[simp] theorem State.placeFrame_buf (s : State) (frame : List Byte) :
    (s.placeFrame frame).buf = frame ++ s.buf.drop frame.length := rfl
@[simp] theorem State.placeFrame_len (s : State) (frame : List Byte) : (s.placeFrame frame).len = frame.length := rfl
@[simp] theorem State.placeFrame_tLast (s : State) (frame : List Byte) : (s.placeFrame frame).tLast = s.tLast := rfl
@[simp] theorem State.placeFrame_hr (s : State) (frame : List Byte) : (s.placeFrame frame).hr = s.hr := rfl
@[simp] theorem State.placeFrame_rxq (s : State) (frame : List Byte) : (s.placeFrame frame).rxq = [] := rfl
@[simp] theorem State.placeFrame_tx (s : State) (frame : List Byte) : (s.placeFrame frame).tx = s.tx := rfl
@[simp] theorem State.placeFrame_now (s : State) (frame : List Byte) : (s.placeFrame frame).now = s.now := rfl
@[simp] theorem State.placeFrame_host (s : State) (frame : List Byte) :
    (s.placeFrame frame).host = .poll s.silentTime :: s.host := rfl
@[simp] theorem State.placeFrame_resets (s : State) (frame : List Byte) : (s.placeFrame frame).resets = s.resets := rfl

@[simp] theorem State.withHost_caps (s : State) (rest : List HostEvent) : (s.withHost rest).caps = s.caps := rfl
@[simp] theorem State.withHost_cfg (s : State) (rest : List HostEvent) : (s.withHost rest).cfg = s.cfg := rfl
@[simp] theorem State.withHost_phase (s : State) (rest : List HostEvent) :
    (s.withHost rest).phase = s.phase := rfl
@[simp] theorem State.withHost_buf (s : State) (rest : List HostEvent) : (s.withHost rest).buf = s.buf := rfl
@[simp] theorem State.withHost_len (s : State) (rest : List HostEvent) : (s.withHost rest).len = s.len := rfl
@[simp] theorem State.withHost_tLast (s : State) (rest : List HostEvent) : (s.withHost rest).tLast = s.tLast := rfl
@[simp] theorem State.withHost_hr (s : State) (rest : List HostEvent) : (s.withHost rest).hr = s.hr := rfl
@[simp] theorem State.withHost_rxq (s : State) (rest : List HostEvent) : (s.withHost rest).rxq = s.rxq := rfl
@[simp] theorem State.withHost_tx (s : State) (rest : List HostEvent) : (s.withHost rest).tx = s.tx := rfl
@[simp] theorem State.withHost_now (s : State) (rest : List HostEvent) : (s.withHost rest).now = s.now := rfl
@[simp] theorem State.withHost_host (s : State) (rest : List HostEvent) : (s.withHost rest).host = rest := rfl
@[simp] theorem State.withHost_resets (s : State) (rest : List HostEvent) : (s.withHost rest).resets = s.resets := rfl

@[simp] theorem State.enqueue_caps (s : State) (bytes : List Byte) : (s.enqueue bytes).caps = s.caps := rfl
@[simp] theorem State.enqueue_cfg (s : State) (bytes : List Byte) : (s.enqueue bytes).cfg = s.cfg := rfl
@[simp] theorem State.enqueue_phase (s : State) (bytes : List Byte) :
    (s.enqueue bytes).phase = s.phase := rfl
@[simp] theorem State.enqueue_buf (s : State) (bytes : List Byte) : (s.enqueue bytes).buf = s.buf := rfl
@[simp] theorem State.enqueue_len (s : State) (bytes : List Byte) : (s.enqueue bytes).len = s.len := rfl
@[simp] theorem State.enqueue_tLast (s : State) (bytes : List Byte) : (s.enqueue bytes).tLast = s.tLast := rfl
@[simp] theorem State.enqueue_hr (s : State) (bytes : List Byte) : (s.enqueue bytes).hr = s.hr := rfl
@[simp] theorem State.enqueue_rxq (s : State) (bytes : List Byte) : (s.enqueue bytes).rxq = s.rxq ++ bytes := rfl
@[simp] theorem State.enqueue_tx (s : State) (bytes : List Byte) : (s.enqueue bytes).tx = s.tx := rfl
@[simp] theorem State.enqueue_now (s : State) (bytes : List Byte) : (s.enqueue bytes).now = s.now := rfl
@[simp] theorem State.enqueue_host (s : State) (bytes : List Byte) : (s.enqueue bytes).host = s.host := rfl
@[simp] theorem State.enqueue_resets (s : State) (bytes : List Byte) : (s.enqueue bytes).resets = s.resets := rfl

@[simp] theorem State.afterReset_caps (s : State) : (s.afterReset).caps = s.caps := rfl
@[simp] theorem State.afterReset_cfg (s : State) : (s.afterReset).cfg = s.cfg := rfl
@[simp] theorem State.afterReset_phase (s : State) : (s.afterReset).phase = .unconfigured := rfl
@[simp] theorem State.afterReset_buf (s : State) :
    (s.afterReset).buf = (List.range s.caps.frameCap).map (Config.resetByte s.resets) := rfl
@[simp] theorem State.afterReset_len (s : State) : (s.afterReset).len = 0 := rfl
@[simp] theorem State.afterReset_tLast (s : State) : (s.afterReset).tLast = Config.resetTime s.resets := rfl
@[simp] theorem State.afterReset_hr (s : State) : (s.afterReset).hr = s.hr := rfl
@[simp] theorem State.afterReset_rxq (s : State) : (s.afterReset).rxq = s.rxq := rfl
@[simp] theorem State.afterReset_tx (s : State) : (s.afterReset).tx = [] := rfl
@[simp] theorem State.afterReset_now (s : State) : (s.afterReset).now = 0 := rfl
@[simp] theorem State.afterReset_host (s : State) : (s.afterReset).host = s.host := rfl
@[simp] theorem State.afterReset_resets (s : State) : (s.afterReset).resets = s.resets + 1 := rfl

@[simp] theorem State.configured_caps (s : State) (cfg : Cfg) : (s.configured cfg).caps = s.caps := rfl
@[simp] theorem State.configured_cfg (s : State) (cfg : Cfg) : (s.configured cfg).cfg = cfg := rfl
@[simp] theorem State.configured_phase (s : State) (cfg : Cfg) :
    (s.configured cfg).phase = .configured := rfl
@[simp] theorem State.configured_buf (s : State) (cfg : Cfg) : (s.configured cfg).buf = s.buf := rfl
@[simp] theorem State.configured_len (s : State) (cfg : Cfg) : (s.configured cfg).len = s.len := rfl
@[simp] theorem State.configured_tLast (s : State) (cfg : Cfg) : (s.configured cfg).tLast = s.tLast := rfl
@[simp] theorem State.configured_hr (s : State) (cfg : Cfg) :
    (s.configured cfg).hr = Memory.restrict cfg.count s.hr := rfl
@[simp] theorem State.configured_rxq (s : State) (cfg : Cfg) : (s.configured cfg).rxq = s.rxq := rfl
@[simp] theorem State.configured_tx (s : State) (cfg : Cfg) : (s.configured cfg).tx = s.tx := rfl
@[simp] theorem State.configured_now (s : State) (cfg : Cfg) : (s.configured cfg).now = s.now := rfl
@[simp] theorem State.configured_host (s : State) (cfg : Cfg) : (s.configured cfg).host = s.host := rfl
@[simp] theorem State.configured_resets (s : State) (cfg : Cfg) : (s.configured cfg).resets = s.resets := rfl

end Sys2Proof.Machine
end

