-- ==== Sys2Proof/Laws/Collector.lean ====
section
/-! SUPPORT. What collecting one byte, and then any number of bytes, can do. -/

namespace Sys2Proof.Machine

open Sys2Proof

/-- One byte is either appended, there being room, or discarded with no trace (R111, R112). -/
theorem collectByte_cases (t : Nat) (s : State) (b : Byte) :
    (s.len < s.caps.frameCap ∧ s.collectByte t b = s.appendByte t b) ∨
      (s.caps.frameCap ≤ s.len ∧ s.collectByte t b = s) := by
  unfold State.collectByte State.hasRoom
  by_cases h : s.len < s.caps.frameCap
  · exact .inl ⟨h, by simp [h]⟩
  · exact .inr ⟨by omega, by simp [h]⟩

theorem collectByte_eq_of_room {s : State} (t : Nat) (b : Byte) (h : s.len < s.caps.frameCap) :
    s.collectByte t b = s.appendByte t b := by
  rcases collectByte_cases t s b with ⟨_, he⟩ | ⟨hf, _⟩
  · exact he
  · omega

theorem collectByte_eq_of_full {s : State} (t : Nat) (b : Byte) (h : s.caps.frameCap ≤ s.len) :
    s.collectByte t b = s := by
  rcases collectByte_cases t s b with ⟨hr, _⟩ | ⟨_, he⟩
  · omega
  · exact he

@[simp] theorem collectBytes_nil (t : Nat) (s : State) : s.collectBytes t [] = s := rfl

@[simp] theorem collectBytes_cons (t : Nat) (s : State) (b : Byte) (rx : List Byte) :
    s.collectBytes t (b :: rx) = (s.collectByte t b).collectBytes t rx := rfl

/-- The collector writes BUF, LEN and T_LAST, and nothing else. -/
theorem collectBytes_frame (t : Nat) (s : State) (rx : List Byte) :
    s.collectBytes t rx =
      { s with
        buf := (s.collectBytes t rx).buf
        len := (s.collectBytes t rx).len
        tLast := (s.collectBytes t rx).tLast } := by
  induction rx generalizing s with
  | nil => rfl
  | cons b rx ih =>
    rw [collectBytes_cons, ih]
    rcases collectByte_cases t s b with ⟨_, h⟩ | ⟨_, h⟩
    · rw [h]
      rfl
    · rw [h]

end Sys2Proof.Machine
end

