-- ==== Sys2Proof/Laws/Operands.lean ====
section
/-! SUPPORT. Field assembly and byte extraction are inverse to each other, and the lengths of what they give. -/

namespace Sys2Proof.Machine

open Sys2Proof

@[simp] theorem be16_hiByte_loByte (v : Word) : be16 (hiByte v) (loByte v) = v := by
  apply BitVec.eq_of_getLsbD_eq
  intro i hi
  simp only [be16, hiByte, loByte, BitVec.getLsbD_or, BitVec.getLsbD_shiftLeft, BitVec.getLsbD_setWidth,
    BitVec.getLsbD_extractLsb']
  by_cases h : i < 8
  · simp [h, hi]
  · have h8 : i - 8 < 8 := by omega
    have hv : 8 + (i - 8) = i := by omega
    simp [h, h8, hv, hi]
    intro h'
    omega

@[simp] theorem le16_loByte_hiByte (v : Word) : le16 (loByte v) (hiByte v) = v := by
  have h := be16_hiByte_loByte v
  rw [be16, BitVec.or_comm] at h
  exact h

@[simp] theorem hiByte_be16 (hi lo : Byte) : hiByte (be16 hi lo) = hi := by
  apply BitVec.eq_of_getLsbD_eq
  intro i h
  have h16 : 8 + i < 16 := by omega
  simp [be16, hiByte, h, h16]

@[simp] theorem loByte_be16 (hi lo : Byte) : loByte (be16 hi lo) = lo := by
  apply BitVec.eq_of_getLsbD_eq
  intro i h
  have h16 : i < 16 := by omega
  simp [be16, loByte, h, h16]

@[simp] theorem loByte_le16 (lo hi : Byte) : loByte (le16 lo hi) = lo := by
  rw [le16, BitVec.or_comm]
  exact loByte_be16 hi lo

@[simp] theorem hiByte_le16 (lo hi : Byte) : hiByte (le16 lo hi) = hi := by
  rw [le16, BitVec.or_comm]
  exact hiByte_be16 hi lo

@[simp] theorem beBytes_length (v : Word) : (beBytes v).length = 2 := rfl

@[simp] theorem leBytes_length (c : Word) : (leBytes c).length = 2 := rfl

@[simp] theorem serialise_nil : serialise [] = [] := rfl

@[simp] theorem serialise_cons (v : Word) (vals : List Word) : serialise (v :: vals) = beBytes v ++ serialise vals := rfl

@[simp] theorem serialise_length (vals : List Word) : (serialise vals).length = 2 * vals.length := by
  induction vals with
  | nil => rfl
  | cons v vals ih =>
    simp [ih]
    omega

/-- The byte count of a read reply is exact for every quantity a reply can carry (R87, R206). -/
theorem byteCount_toNat (q : Word) (h : q.toNat ≤ 127) : (byteCount q).toNat = 2 * q.toNat := by
  simp [byteCount]
  omega

@[simp] theorem withCrc_length (bytes : List Byte) : (withCrc bytes).length = bytes.length + 2 := by
  simp [withCrc]

theorem registerOperands_cons (b0 b1 b2 b3 b4 b5 : Byte) (rest : List Byte) :
    registerOperands (b0 :: b1 :: b2 :: b3 :: b4 :: b5 :: rest) = some (be16 b2 b3, be16 b4 b5) := rfl

/-- A buffer of at least six cells has the four operand cells. -/
theorem registerOperands_eq (buf : List Byte) (h : 6 ≤ buf.length) :
    registerOperands buf =
      some (be16 (buf.getD 2 0) (buf.getD 3 0), be16 (buf.getD 4 0) (buf.getD 5 0)) := by
  match buf, h with
  | b0 :: b1 :: b2 :: b3 :: b4 :: b5 :: rest, _ => rfl

end Sys2Proof.Machine
end

