-- ==== Sys2Proof/Laws/Crc.lean ====
section
/-! SUPPORT. The CRC over a concatenation, and the bit step as an exclusive-or linear map. -/

namespace Sys2Proof.Machine

open Sys2Proof

@[simp] theorem crcFrom_nil (acc : Word) : crcFrom acc [] = acc := rfl

@[simp] theorem crcFrom_cons (acc : Word) (b : Byte) (bytes : List Byte) :
    crcFrom acc (b :: bytes) = crcFrom (crcByte acc b) bytes := rfl

theorem crcFrom_append (acc : Word) (a b : List Byte) : crcFrom acc (a ++ b) = crcFrom (crcFrom acc a) b :=
  List.foldl_append

theorem crc16_append (a b : List Byte) : crc16 (a ++ b) = crcFrom (crc16 a) b := crcFrom_append _ a b

theorem withCrc_eq (bytes : List Byte) : withCrc bytes = bytes ++ [loByte (crc16 bytes), hiByte (crc16 bytes)] := rfl

/-- CRC_BIT is linear over exclusive-or. -/
theorem crcBit_xor (a b : Word) : crcBit (a ^^^ b) = crcBit a ^^^ crcBit b := by
  unfold crcBit
  rw [BitVec.getLsbD_xor, BitVec.ushiftRight_xor_distrib]
  generalize a >>> 1 = a', b >>> 1 = b', (0xA001#16 : Word) = c
  cases a.getLsbD 0 <;> cases b.getLsbD 0
  · rfl
  · exact (BitVec.xor_assoc a' b' c)
  · show (a' ^^^ b') ^^^ c = (a' ^^^ c) ^^^ b'
    rw [BitVec.xor_assoc, BitVec.xor_assoc, BitVec.xor_comm b' c]
  · show a' ^^^ b' = (a' ^^^ c) ^^^ (b' ^^^ c)
    rw [BitVec.xor_comm b' c, BitVec.xor_assoc, ← BitVec.xor_assoc c c b', BitVec.xor_self, BitVec.zero_xor]

theorem crcBits_xor (k : Nat) (a b : Word) : crcBits k (a ^^^ b) = crcBits k a ^^^ crcBits k b := by
  induction k generalizing a b with
  | zero => rfl
  | succ k ih => simp [crcBits, crcBit_xor, ih]

end Sys2Proof.Machine
end

