-- ==== Sys2Proof/Laws/Memory.lean ====
section
/-! SUPPORT. Read after write, and that every operation on the register table keeps its canonical form. -/

namespace Sys2Proof.Machine

open Sys2Proof

@[simp] theorem Memory.read_nil (a : Nat) : Memory.read [] a = Memory.unlisted := rfl

theorem Memory.read_cons (b : Nat) (w : Word) (m : Memory) (a : Nat) :
    Memory.read ((b, w) :: m) a = if b = a then w else Memory.read m a := rfl

/-- A table in canonical form from `lo` on lists no address below `lo`. -/
theorem Memory.read_below {count lo : Nat} {m : Memory} (h : Memory.wfFrom count lo m = true) {a : Nat}
    (ha : a < lo) : Memory.read m a = Memory.unlisted := by
  induction m generalizing lo with
  | nil => rfl
  | cons c m ih =>
    obtain ⟨b, w⟩ := c
    simp only [Memory.wfFrom, Bool.and_eq_true, decide_eq_true_eq] at h
    rw [Memory.read_cons, if_neg (by omega)]
    exact ih h.2 (by omega)

theorem Memory.read_of_count_le {count lo : Nat} {m : Memory} (h : Memory.wfFrom count lo m = true) {a : Nat}
    (ha : count ≤ a) : Memory.read m a = Memory.unlisted := by
  induction m generalizing lo with
  | nil => rfl
  | cons c m ih =>
    obtain ⟨b, w⟩ := c
    simp only [Memory.wfFrom, Bool.and_eq_true, decide_eq_true_eq] at h
    rw [Memory.read_cons, if_neg (by omega)]
    exact ih h.2

theorem Memory.read_consCell (a : Nat) (v : Word) (m : Memory) (x : Nat)
    (hm : Memory.read m a = Memory.unlisted) :
    Memory.read (Memory.cons a v m) x = if x = a then v else Memory.read m x := by
  unfold Memory.cons
  by_cases hv : v = Memory.unlisted
  · by_cases hx : x = a
    · simp [hv, hx, hm]
    · simp [hv, hx]
  · by_cases hx : x = a
    · simp [hv, hx, Memory.read_cons]
    · simp [hv, hx, Memory.read_cons, Ne.symm hx]

/-- What a write can do to a read, in a canonical table. -/
theorem Memory.read_write {count lo : Nat} {m : Memory} (h : Memory.wfFrom count lo m = true) (a : Nat) (v : Word)
    (x : Nat) : Memory.read (Memory.write m a v) x = if x = a then v else Memory.read m x := by
  induction m generalizing lo with
  | nil => exact Memory.read_consCell a v [] x rfl
  | cons c m ih =>
    obtain ⟨b, w⟩ := c
    have hc := h
    simp only [Memory.wfFrom, Bool.and_eq_true, decide_eq_true_eq] at hc
    unfold Memory.write
    by_cases h1 : a < b
    · rw [if_pos h1, Memory.read_consCell a v _ x]
      rw [Memory.read_cons, if_neg (by omega)]
      exact Memory.read_below hc.2 (by omega)
    · rw [if_neg h1]
      by_cases h2 : a = b
      · rw [if_pos h2, Memory.read_consCell a v _ x (Memory.read_below hc.2 (by omega)), Memory.read_cons]
        by_cases hx : x = a
        · simp [hx]
        · rw [if_neg hx, if_neg hx, if_neg (by omega)]
      · rw [if_neg h2, Memory.read_cons, Memory.read_cons, ih hc.2]
        by_cases hx : x = a
        · simp [hx, Ne.symm h2]
        · simp [hx]

theorem Memory.wfFrom_weaken {count lo lo' : Nat} {m : Memory} (h : Memory.wfFrom count lo m = true) (hl : lo' ≤ lo) :
    Memory.wfFrom count lo' m = true := by
  cases m with
  | nil => rfl
  | cons c m =>
    obtain ⟨b, w⟩ := c
    simp only [Memory.wfFrom, Bool.and_eq_true, decide_eq_true_eq] at h ⊢
    exact ⟨⟨⟨by omega, h.1.1.2⟩, h.1.2⟩, h.2⟩

theorem Memory.wfFrom_cons {count lo a : Nat} {v : Word} {m : Memory} (hl : lo ≤ a) (ha : a < count)
    (h : Memory.wfFrom count (a + 1) m = true) : Memory.wfFrom count lo (Memory.cons a v m) = true := by
  unfold Memory.cons
  by_cases hv : v = Memory.unlisted
  · rw [if_pos hv]
    exact Memory.wfFrom_weaken h (by omega)
  · simp [hv, Memory.wfFrom, hl, ha, h]

theorem Memory.wfFrom_write {count lo : Nat} {m : Memory} (h : Memory.wfFrom count lo m = true) {a : Nat} (v : Word)
    (hl : lo ≤ a) (ha : a < count) : Memory.wfFrom count lo (Memory.write m a v) = true := by
  induction m generalizing lo with
  | nil => exact Memory.wfFrom_cons hl ha rfl
  | cons c m ih =>
    obtain ⟨b, w⟩ := c
    have hc := h
    simp only [Memory.wfFrom, Bool.and_eq_true, decide_eq_true_eq] at hc
    unfold Memory.write
    by_cases h1 : a < b
    · rw [if_pos h1]
      refine Memory.wfFrom_cons hl ha ?_
      simp only [Memory.wfFrom, Bool.and_eq_true, decide_eq_true_eq]
      exact ⟨⟨⟨by omega, hc.1.1.2⟩, hc.1.2⟩, hc.2⟩
    · rw [if_neg h1]
      by_cases h2 : a = b
      · rw [if_pos h2]
        exact Memory.wfFrom_cons hl ha (Memory.wfFrom_weaken hc.2 (by omega))
      · rw [if_neg h2]
        simp only [Memory.wfFrom, Bool.and_eq_true, decide_eq_true_eq]
        exact ⟨hc.1, ih hc.2 (by omega)⟩

/-- Writing a cell of the table keeps the canonical form. -/
theorem Memory.wf_write {count : Nat} {m : Memory} (h : Memory.wf count m = true) {a : Nat} (v : Word) (ha : a < count) :
    Memory.wf count (Memory.write m a v) = true := Memory.wfFrom_write h v (Nat.zero_le a) ha

theorem Memory.wfFrom_restrict {count lo : Nat} {m : Memory} (count' : Nat) (h : Memory.wfFrom count lo m = true) :
    Memory.wfFrom count' lo (Memory.restrict count' m) = true := by
  induction m generalizing lo with
  | nil => rfl
  | cons c m ih =>
    obtain ⟨b, w⟩ := c
    simp only [Memory.wfFrom, Bool.and_eq_true, decide_eq_true_eq] at h
    have ih' := ih h.2
    unfold Memory.restrict at ih' ⊢
    by_cases hb : b < count'
    · simp only [List.filter_cons, hb, decide_true, if_true, Memory.wfFrom, Bool.and_eq_true, decide_eq_true_eq]
      exact ⟨⟨⟨h.1.1.1, trivial⟩, h.1.2⟩, ih'⟩
    · simp only [List.filter_cons, hb, decide_false, Bool.false_eq_true, if_false]
      exact Memory.wfFrom_weaken ih' (by omega)

/-- Binding the register port to a table of another size keeps the canonical form. -/
theorem Memory.wf_restrict {count : Nat} {m : Memory} (count' : Nat) (h : Memory.wf count m = true) :
    Memory.wf count' (Memory.restrict count' m) = true := Memory.wfFrom_restrict count' h

theorem Memory.read_restrict (count : Nat) (m : Memory) {a : Nat} (ha : a < count) :
    Memory.read (Memory.restrict count m) a = Memory.read m a := by
  induction m with
  | nil => rfl
  | cons c m ih =>
    obtain ⟨b, w⟩ := c
    unfold Memory.restrict at ih ⊢
    by_cases hb : b < count
    · simp only [List.filter_cons, hb, decide_true, if_true, Memory.read_cons, ih]
    · simp only [List.filter_cons, hb, decide_false, Bool.false_eq_true, if_false, Memory.read_cons, ih]
      rw [if_neg (by omega)]

end Sys2Proof.Machine
end

