-- ==== Sys2Proof/Laws/Ops.lean ====
section
/-! SUPPORT. For each shared operation, once, everything it can do. -/

namespace Sys2Proof.Machine

open Sys2Proof

/-- The constraints of R6 on the capacities. -/
theorem capsLegal_iff (caps : Capacities) :
    capsLegal caps = true ↔ 8 ≤ caps.frameCap ∧ caps.frameCap ≤ caps.respCap ∧ caps.respCap ≤ 259 := by
  simp [capsLegal, and_assoc]

theorem cfgLegal_iff (cfg : Cfg) :
    cfgLegal cfg = true ↔ 1 ≤ cfg.slaveAddr.toNat ∧ cfg.slaveAddr.toNat ≤ 247 ∧ cfg.count ≤ 65536 := by
  simp [cfgLegal, and_assoc]

theorem parametersLegal_iff (s : State) :
    s.parametersLegal = true ↔ capsLegal s.caps = true ∧ cfgLegal s.cfg = true := by
  simp [State.parametersLegal]

/-- MAX_QTY <= 127, and a reply of MAX_QTY registers fits the response buffer (R6, R185). -/
theorem maxQty_bound {caps : Capacities} (h : capsLegal caps = true) :
    maxQty caps ≤ 127 ∧ 5 + 2 * maxQty caps ≤ caps.respCap := by
  rw [capsLegal_iff] at h
  unfold maxQty
  omega

/-! ### SEND and the Exception Responder -/

theorem send_eq {rsp : List Byte} {s : State} (h : rsp.length + 2 ≤ s.caps.respCap) :
    send rsp s = .next (s.transmit (withCrc rsp)) := if_pos h

/-- If SEND answers a next state, the response fitted and TX gained it with its CRC, nothing else. -/
theorem send_next {rsp : List Byte} {s t : State} (h : send rsp s = .next t) :
    rsp.length + 2 ≤ s.caps.respCap ∧ t = s.transmit (withCrc rsp) := by
  unfold send at h
  split at h
  · next hfits => exact ⟨hfits, by cases h; rfl⟩
  · cases h

theorem raiseException_eq {s : State} (f e : Byte) (h : 5 ≤ s.caps.respCap) :
    raiseException f e s = .next (s.transmit (withCrc [s.cfg.slaveAddr, errorFunction f, e])) := send_eq h

/-- If the Exception Responder answers a next state, TX gained the 5-byte reply, nothing else. -/
theorem raiseException_next {f e : Byte} {s t : State} (h : raiseException f e s = .next t) :
    5 ≤ s.caps.respCap ∧ t = s.transmit (withCrc [s.cfg.slaveAddr, errorFunction f, e]) := send_next h

/-! ### Register-table access -/

theorem memRead_eq {s : State} {a n : Nat} (h : a + n ≤ s.cfg.count) :
    memRead s a n = some ((List.range n).map fun k => Memory.read s.hr (a + k)) := if_pos h

theorem memRead_some {s : State} {a n : Nat} {vals : List Word} (h : memRead s a n = some vals) :
    a + n ≤ s.cfg.count ∧ vals = (List.range n).map fun k => Memory.read s.hr (a + k) := by
  unfold memRead at h
  split at h
  · next hin => exact ⟨hin, by cases h; rfl⟩
  · cases h

theorem memWrite_eq {s : State} {a : Nat} (v : Word) (h : a < s.cfg.count) :
    memWrite s a v = some (s.writeCell a v) := if_pos h

theorem memWrite_some {s t : State} {a : Nat} {v : Word} (h : memWrite s a v = some t) :
    a < s.cfg.count ∧ t = s.writeCell a v := by
  unfold memWrite at h
  split at h
  · next hin => exact ⟨hin, by cases h; rfl⟩
  · cases h

theorem frameBytes_eq {s : State} {k : Nat} (h : k ≤ s.buf.length) : frameBytes s k = some (s.buf.take k) := if_pos h

theorem frameBytes_some {s : State} {k : Nat} {bytes : List Byte} (h : frameBytes s k = some bytes) :
    k ≤ s.buf.length ∧ bytes = s.buf.take k := by
  unfold frameBytes at h
  split at h
  · next hin => exact ⟨hin, by cases h; rfl⟩
  · cases h

/-! ### The end of a frame -/

@[simp] theorem endOfFrame_next_eq (s : State) : endOfFrame (.next s) = .next s.clearFrame := rfl

@[simp] theorem endOfFrame_fault_eq (r : Fault) : endOfFrame (.fault r) = .fault r := rfl

@[simp] theorem endOfFrame_refused_eq (r : Refusal) : endOfFrame (.refused r) = .refused r := rfl

theorem endOfFrame_next {r : Result} {t : State} (h : endOfFrame r = .next t) :
    ∃ s, r = .next s ∧ t = s.clearFrame := by
  cases r with
  | next s => exact ⟨s, rfl, by cases h; rfl⟩
  | fault r => cases h
  | refused r => cases h

end Sys2Proof.Machine
end

