-- ==== Sys2Proof/Laws/HostEvents.lean ====
section
/-! SUPPORT. What a step is, event by event: the lemmas that later proofs cite instead of unfolding step. -/

namespace Sys2Proof.Machine

open Sys2Proof

theorem step_of_noEvent {s : State} (h : s.host = []) : step s = .next s := by
  unfold step nextEvent
  rw [h]

theorem step_of_event {s : State} {e : HostEvent} {rest : List HostEvent} (h : s.host = e :: rest) :
    step s = runEvent e (s.withHost rest) := by
  unfold step nextEvent
  rw [h]

@[simp] theorem runEvent_rx (bytes : List Byte) (s : State) : runEvent (.rx bytes) s = .next (s.enqueue bytes) := rfl

@[simp] theorem runEvent_reset (s : State) : runEvent .reset s = .next s.afterReset := rfl

@[simp] theorem runEvent_poll (t : Nat) (s : State) : runEvent (.poll t) s = poll t s := rfl

@[simp] theorem runEvent_hostWrite (i : Nat) (v : Word) (s : State) :
    runEvent (.hostWrite i v) s =
      if i < s.cfg.count then .next (s.writeCell i v) else .refused .hostWriteOutsideTable := rfl

@[simp] theorem runEvent_configure (cfg : Cfg) (s : State) :
    runEvent (.configure cfg) s =
      if !s.cfgOpen then .refused .reconfiguredWithoutReset
      else if !(capsLegal s.caps && cfgLegal cfg) then .refused .illegalConfiguration
      else .next (s.configured cfg) := rfl

/-- A POLL step that happens is the silence test on the state that has collected every waiting byte. -/
theorem poll_eq_delimit {s : State} {t : Nat} (hc : s.cfgSupplied = true) (hp : s.parametersLegal = true) (hn : s.now ≤ t) :
    poll t s = delimit t (s.afterCollect t) := by
  unfold poll
  rw [hc, hp, if_neg (by decide), if_neg (by decide), if_neg (by omega)]

/-- No POLL step happens before CFG has been supplied. -/
theorem poll_of_missingConfiguration {s : State} (t : Nat) (h : s.phase = .unconfigured) :
    poll t s = .refused .missingConfiguration := by
  unfold poll State.cfgSupplied
  rw [h]
  rfl

theorem cfgSupplied_iff (s : State) : s.cfgSupplied = true ↔ s.phase ≠ .unconfigured := by simp [State.cfgSupplied]

theorem cfgOpen_iff (s : State) : s.cfgOpen = true ↔ s.phase ≠ .polled := by simp [State.cfgOpen]

theorem delimit_of_silent {s : State} {t : Nat} (h : s.silent t = true) :
    delimit t s = endOfFrame (handleFrame s) := if_pos h

theorem delimit_of_not_silent {s : State} {t : Nat} (h : s.silent t = false) : delimit t s = .next s := by
  unfold delimit
  rw [h]
  rfl

theorem silent_iff (s : State) (t : Nat) : s.silent t = true ↔ 0 < s.len ∧ s.cfg.tSilence < t - s.tLast := by
  simp [State.silent]

end Sys2Proof.Machine
end

