-- ==== Sys2Proof/Laws/PerInstr.lean ====
section
/-! SUPPORT. One family of statements about every instruction: its function code and payload, as the encoder lays them out, lead
the dispatcher back to it (spec/30_encoding.md R89, R90). -/

namespace Sys2Proof.Laws

-- Closed evaluations one after another: each waits for the kernel, and one thread per waiting theorem exceeds the memory limit.
set_option Elab.async false

open Sys2Proof Sys2Proof.Machine

/-- A well-formed request's function code and payload, with anything after them, select that request. -/
def FunctionCode.Statement (i : Instr) : Prop :=
  i.wellFormed = true →
    ∀ (addr : Byte) (rest : List Byte), decodeFunction i.func (addr :: i.func :: (i.payload ++ rest)) = .ok i

theorem FunctionCode.rhr (start qty : Word) : FunctionCode.Statement (.rhr start qty) := by
  intro _ addr rest
  simp [decodeFunction, Instr.func, Instr.payload, beBytes, registerOperands]

theorem FunctionCode.wsr (reg val : Word) : FunctionCode.Statement (.wsr reg val) := by
  intro _ addr rest
  simp [decodeFunction, Instr.func, Instr.payload, beBytes, registerOperands]

/-- A function code that is neither 0x03 nor 0x06 selects its ILLF row, whatever the frame holds. -/
theorem decodeFunction_illegal {f : Byte} (h3 : f ≠ 0x03#8) (h6 : f ≠ 0x06#8) (buf : List Byte) :
    decodeFunction f buf = .ok (illegalFunctionRow f) := by
  simp [decodeFunction, h3, h6]

/-- A function code is in the row a constructor stands for: it is no register access, and the dispatcher selects the constructor. -/
abbrev InRow (f : Byte) (i : Instr) : Prop := f ≠ 0x03#8 ∧ f ≠ 0x06#8 ∧ illegalFunctionRow f = i

/-- An ILLF constructor of a matching row meets the family's statement. -/
theorem FunctionCode.ofRow {f : Byte} {i : Instr} (hf : i.func = f)
    (h : InRow f i) (addr : Byte) (rest : List Byte) :
    decodeFunction i.func (addr :: i.func :: (i.payload ++ rest)) = .ok i := by
  rw [hf, decodeFunction_illegal h.1 h.2.1, h.2.2]

theorem illf80_inRow : ∀ f : Byte, (Instr.illf80 f).wellFormed = true → InRow f (.illf80 f) := by decide +kernel

theorem FunctionCode.illf80 (f : Byte) : FunctionCode.Statement (.illf80 f) := fun h =>
  FunctionCode.ofRow rfl (illf80_inRow f h)

theorem illf40_inRow : ∀ f : Byte, (Instr.illf40 f).wellFormed = true → InRow f (.illf40 f) := by decide +kernel

theorem FunctionCode.illf40 (f : Byte) : FunctionCode.Statement (.illf40 f) := fun h =>
  FunctionCode.ofRow rfl (illf40_inRow f h)

theorem illf20_inRow : ∀ f : Byte, (Instr.illf20 f).wellFormed = true → InRow f (.illf20 f) := by decide +kernel

theorem FunctionCode.illf20 (f : Byte) : FunctionCode.Statement (.illf20 f) := fun h =>
  FunctionCode.ofRow rfl (illf20_inRow f h)

theorem illf10_inRow : ∀ f : Byte, (Instr.illf10 f).wellFormed = true → InRow f (.illf10 f) := by decide +kernel

theorem FunctionCode.illf10 (f : Byte) : FunctionCode.Statement (.illf10 f) := fun h =>
  FunctionCode.ofRow rfl (illf10_inRow f h)

theorem illf08_inRow : ∀ f : Byte, (Instr.illf08 f).wellFormed = true → InRow f (.illf08 f) := by decide +kernel

theorem FunctionCode.illf08 (f : Byte) : FunctionCode.Statement (.illf08 f) := fun h =>
  FunctionCode.ofRow rfl (illf08_inRow f h)

theorem illf00_inRow : ∀ f : Byte, (Instr.illf00 f).wellFormed = true → InRow f (.illf00 f) := by decide +kernel

theorem FunctionCode.illf00 (f : Byte) : FunctionCode.Statement (.illf00 f) := fun h =>
  FunctionCode.ofRow rfl (illf00_inRow f h)

theorem illf02_inRow : ∀ f : Byte, (Instr.illf02 f).wellFormed = true → InRow f (.illf02 f) := by decide +kernel

theorem FunctionCode.illf02 (f : Byte) : FunctionCode.Statement (.illf02 f) := fun h =>
  FunctionCode.ofRow rfl (illf02_inRow f h)

theorem illf04_inRow : ∀ f : Byte, (Instr.illf04 f).wellFormed = true → InRow f (.illf04 f) := by decide +kernel

theorem FunctionCode.illf04 (f : Byte) : FunctionCode.Statement (.illf04 f) := fun h =>
  FunctionCode.ofRow rfl (illf04_inRow f h)

theorem illf07_inRow : ∀ f : Byte, (Instr.illf07 f).wellFormed = true → InRow f (.illf07 f) := by decide +kernel

theorem FunctionCode.illf07 (f : Byte) : FunctionCode.Statement (.illf07 f) := fun h =>
  FunctionCode.ofRow rfl (illf07_inRow f h)

end Sys2Proof.Laws
end

