-- ==== Sys2Proof/Tests/Slice0.lean ====
section
/-! SUPPORT. The model's own tests: the smoke test of WellFormed, words written out from the spec's encodings, one-step vectors of
spec/95_test_vectors.md (each named by its V number; the frames of other function codes were computed by hand from R195 to R197),
and a witness for every statement that has hypotheses. -/

namespace Sys2Proof.Tests

-- Closed evaluations one after another: each waits for the kernel, and one thread per waiting theorem exceeds the memory limit.
set_option Elab.async false

open Sys2Proof Sys2Proof.Machine

/-! ### WellFormed refuses a term for each of its checks -/

theorem test_illFormed_illf80 : (Instr.illf80 0x03#8).wellFormed = false := by decide

theorem test_illFormed_illf40 : (Instr.illf40 0x83#8).wellFormed = false := by decide

theorem test_illFormed_illf20 : (Instr.illf20 0x43#8).wellFormed = false := by decide

theorem test_illFormed_illf10 : (Instr.illf10 0x23#8).wellFormed = false := by decide

theorem test_illFormed_illf08 : (Instr.illf08 0x13#8).wellFormed = false := by decide

theorem test_illFormed_illf00 : (Instr.illf00 0x02#8).wellFormed = false := by decide

theorem test_illFormed_illf02 : (Instr.illf02 0x03#8).wellFormed = false := by decide

theorem test_illFormed_illf04 : (Instr.illf04 0x06#8).wellFormed = false := by decide

theorem test_illFormed_illf07 : (Instr.illf07 0x06#8).wellFormed = false := by decide

/-! ### Words written out from the spec's encodings -/

/-- RHR 1, 0, 2 (R93, R133). -/
theorem test_decode_rhr :
    decode 0x01#8 [0x01#8, 0x03#8, 0x00#8, 0x00#8, 0x00#8, 0x02#8, 0xC4#8, 0x0B#8] 8 = .ok (.rhr 0x0000#16 0x0002#16) := by decide +kernel

/-- WSR 1, 1, 99 (R167). -/
theorem test_decode_wsr :
    decode 0x01#8 [0x01#8, 0x06#8, 0x00#8, 0x01#8, 0x00#8, 0x63#8, 0x98#8, 0x23#8] 8 = .ok (.wsr 0x0001#16 0x0063#16) := by decide +kernel

/-- REQ 1, 0x83 (V83). -/
theorem test_decode_illf80 :
    decode 0x01#8 [0x01#8, 0x83#8, 0x41#8, 0x81#8] 4 = .ok (.illf80 0x83#8) := by decide +kernel

/-- REQ 1, 0x45. -/
theorem test_decode_illf40 :
    decode 0x01#8 [0x01#8, 0x45#8, 0xC1#8, 0xD3#8] 4 = .ok (.illf40 0x45#8) := by decide +kernel

/-- REQ 1, 0x2B. -/
theorem test_decode_illf20 :
    decode 0x01#8 [0x01#8, 0x2B#8, 0x40#8, 0x3F#8] 4 = .ok (.illf20 0x2B#8) := by decide +kernel

/-- REQ 1, 0x11 (V86). -/
theorem test_decode_illf10 :
    decode 0x01#8 [0x01#8, 0x11#8, 0xC0#8, 0x2C#8] 4 = .ok (.illf10 0x11#8) := by decide +kernel

/-- REQ 1, 0x0F. -/
theorem test_decode_illf08 :
    decode 0x01#8 [0x01#8, 0x0F#8, 0x40#8, 0x24#8] 4 = .ok (.illf08 0x0F#8) := by decide +kernel

/-- REQ 1, 0x00 (V84). -/
theorem test_decode_illf00 :
    decode 0x01#8 [0x01#8, 0x00#8, 0x00#8, 0x20#8] 4 = .ok (.illf00 0x00#8) := by decide +kernel

/-- REQ 1, 0x02. -/
theorem test_decode_illf02 :
    decode 0x01#8 [0x01#8, 0x02#8, 0x81#8, 0xE1#8] 4 = .ok (.illf02 0x02#8) := by decide +kernel

/-- REQ 1, 0x04, 00 00 00 01 (V28). -/
theorem test_decode_illf04 :
    decode 0x01#8 [0x01#8, 0x04#8, 0x00#8, 0x00#8, 0x00#8, 0x01#8, 0x31#8, 0xCA#8] 8 = .ok (.illf04 0x04#8) := by decide +kernel

/-- REQ 1, 0x07. -/
theorem test_decode_illf07 :
    decode 0x01#8 [0x01#8, 0x07#8, 0x41#8, 0xE2#8] 4 = .ok (.illf07 0x07#8) := by decide +kernel

/-- V52: a 4-byte frame with stale bytes 60 18 after it takes its operands from its own CRC and from them. -/
theorem test_decode_shortFrame :
    decode 0x01#8 [0x01#8, 0x03#8, 0x40#8, 0x21#8, 0x60#8, 0x18#8, 0x98#8, 0x23#8] 4 = .ok (.rhr 0x4021#16 0x6018#16) := by decide +kernel

/-- V23: address 0 has no special meaning. -/
theorem test_decode_otherAddress :
    decode 0x01#8 [0x00#8, 0x06#8, 0x00#8, 0x01#8, 0x00#8, 0x63#8, 0x99#8, 0xF2#8] 8 = .error .otherAddress := by decide +kernel

/-- V24: the last byte inverted. -/
theorem test_decode_badCrc :
    decode 0x01#8 (badCrc [0x01#8, 0x03#8, 0x00#8, 0x00#8, 0x00#8, 0x02#8, 0xC4#8, 0x0B#8]) 8 = .error .badCrc := by decide +kernel

/-- V20. -/
theorem test_decode_tooShort : decode 0x01#8 [0x01#8, 0x03#8, 0x00#8] 3 = .error .tooShort := by decide +kernel

/-- The two register-access rows of the opcode table, by table word. -/
theorem test_decodeTableWord :
    decodeTableWord 8 0x03 = some (.rhr 0x0000#16 0x0000#16) ∧ decodeTableWord 8 0x06 = some (.wsr 0x0000#16 0x0000#16) := by
  decide +kernel

/-! ### The CRC (spec/95_test_vectors.md section 2) -/

/-- The first bit steps of CRC_BYTE(0xFFFF, 0x01). -/
theorem test_crcBit : crcBit 0xFFFE#16 = 0x7FFF#16 ∧ crcBit 0x7FFF#16 = 0x9FFE#16 ∧ crcBit 0x0001#16 = 0xA001#16 := by decide

theorem test_crcByte : crcByte 0xFFFF#16 0x01#8 = 0x807E#16 := by decide

/-! ### One-step vectors -/

/-- The common setting of section 3: SLAVE_ADDR = 1, HR = [10, 20, 30], T_SILENCE = 5, FRAME_CAP = RESP_CAP = 16. -/
def sample : State :=
  { State.reset with hr := [(0, 10#16), (1, 20#16), (2, 30#16)], tLast := 100, now := 100, phase := .polled }

/-- `bytes` stand in BUF, stamped 100, stale bytes zero, and the next event is POLL 106, which completes them. -/
def framed (bytes : List Byte) : State :=
  { sample with buf := bytes ++ List.replicate (16 - bytes.length) 0x00#8, len := bytes.length, host := [.poll 106] }

/-- The bytes in TX after a step that answers a next state. -/
def sent (r : Result) : Option (List Byte) :=
  match r with
  | .next s => some s.tx
  | .fault _ => none
  | .refused _ => none

/-- HR[0..2] after a step that answers a next state. -/
def cells (r : Result) : Option (List Word) :=
  match r with
  | .next s => some ((List.range 3).map (Memory.read s.hr))
  | .fault _ => none
  | .refused _ => none

/-- LEN, T_LAST and TX after a step that answers a next state. -/
def fill (r : Result) : Option (Nat × Nat × List Byte) :=
  match r with
  | .next s => some (s.len, s.tLast, s.tx)
  | .fault _ => none
  | .refused _ => none

/-- V41: s + q = COUNT. -/
theorem test_step_rhr_wholeTable :
    sent (step (framed [0x01#8, 0x03#8, 0x00#8, 0x00#8, 0x00#8, 0x03#8, 0x05#8, 0xCB#8])) =
      some [0x01#8, 0x03#8, 0x06#8, 0x00#8, 0x0A#8, 0x00#8, 0x14#8, 0x00#8, 0x1E#8, 0x79#8, 0x78#8] := by decide +kernel

/-- V48: s = 0xFFFF, q = 2. -/
theorem test_step_rhr_sumIsExact :
    sent (step (framed [0x01#8, 0x03#8, 0xFF#8, 0xFF#8, 0x00#8, 0x02#8, 0xC4#8, 0x2F#8])) =
      some [0x01#8, 0x83#8, 0x02#8, 0xC0#8, 0xF1#8] := by decide +kernel

/-- V83. -/
theorem test_step_illf80 :
    sent (step (framed [0x01#8, 0x83#8, 0x41#8, 0x81#8])) =
      some [0x01#8, 0x83#8, 0x01#8, 0x80#8, 0xF0#8] := by decide +kernel

/-- V85. -/
theorem test_step_illf10_withPayload :
    sent (step (framed [0x01#8, 0x10#8, 0x00#8, 0x00#8, 0x00#8, 0x01#8, 0x02#8, 0x00#8, 0x05#8, 0x66#8, 0x53#8])) =
      some [0x01#8, 0x90#8, 0x01#8, 0x8D#8, 0xC0#8] := by decide +kernel

/-- V84. -/
theorem test_step_illf00 :
    sent (step (framed [0x01#8, 0x00#8, 0x00#8, 0x20#8])) =
      some [0x01#8, 0x80#8, 0x01#8, 0x80#8, 0x00#8] := by decide +kernel

/-- V28. -/
theorem test_step_illf04 :
    sent (step (framed [0x01#8, 0x04#8, 0x00#8, 0x00#8, 0x00#8, 0x01#8, 0x31#8, 0xCA#8])) =
      some [0x01#8, 0x84#8, 0x01#8, 0x82#8, 0xC0#8] := by decide +kernel

/-- REQ 1, 0x45. -/
theorem test_step_illf40 :
    sent (step (framed [0x01#8, 0x45#8, 0xC1#8, 0xD3#8])) =
      some [0x01#8, 0xC5#8, 0x01#8, 0xB2#8, 0x90#8] := by decide +kernel

/-- REQ 1, 0x2B. -/
theorem test_step_illf20 :
    sent (step (framed [0x01#8, 0x2B#8, 0x40#8, 0x3F#8])) =
      some [0x01#8, 0xAB#8, 0x01#8, 0x9E#8, 0xF0#8] := by decide +kernel

/-- REQ 1, 0x0F. -/
theorem test_step_illf08 :
    sent (step (framed [0x01#8, 0x0F#8, 0x40#8, 0x24#8])) =
      some [0x01#8, 0x8F#8, 0x01#8, 0x85#8, 0xF0#8] := by decide +kernel

/-- REQ 1, 0x02. -/
theorem test_step_illf02 :
    sent (step (framed [0x01#8, 0x02#8, 0x81#8, 0xE1#8])) =
      some [0x01#8, 0x82#8, 0x01#8, 0x81#8, 0x60#8] := by decide +kernel

/-- REQ 1, 0x07. -/
theorem test_step_illf07 :
    sent (step (framed [0x01#8, 0x07#8, 0x41#8, 0xE2#8])) =
      some [0x01#8, 0x87#8, 0x01#8, 0x82#8, 0x30#8] := by decide +kernel

/-- V60. -/
theorem test_step_wsr :
    cells (step (framed [0x01#8, 0x06#8, 0x00#8, 0x01#8, 0x00#8, 0x63#8, 0x98#8, 0x23#8])) = some [10#16, 99#16, 30#16] ∧
      sent (step (framed [0x01#8, 0x06#8, 0x00#8, 0x01#8, 0x00#8, 0x63#8, 0x98#8, 0x23#8])) = some [0x01#8, 0x06#8, 0x00#8, 0x01#8, 0x00#8, 0x63#8, 0x98#8, 0x23#8] := by
  decide +kernel

/-- V67: the value comes from the frame's own CRC bytes. -/
theorem test_step_wsr_shortFrame :
    cells (step (framed [0x01#8, 0x06#8, 0x00#8, 0x02#8, 0x60#8, 0x18#8])) = some [10#16, 20#16, 0x6018#16] ∧
      sent (step (framed [0x01#8, 0x06#8, 0x00#8, 0x02#8, 0x60#8, 0x18#8])) = some [0x01#8, 0x06#8, 0x00#8, 0x02#8, 0x60#8, 0x18#8] := by
  decide +kernel

/-- V3: a frame assembled over two steps. -/
theorem test_step_collects :
    fill (step { framed [0x01#8, 0x03#8] with rxq := [0x00#8, 0x00#8, 0x00#8, 0x02#8, 0xC4#8, 0x0B#8], host := [.poll 101] }) =
      some (8, 101, []) := by decide +kernel

/-- V4: elapsed 5 is not more than 5. -/
theorem test_step_silenceIsStrict :
    fill (step { framed [0x01#8, 0x03#8, 0x00#8, 0x00#8, 0x00#8, 0x02#8, 0xC4#8, 0x0B#8] with host := [.poll 105] }) = some (8, 100, []) := by
  decide +kernel

/-- V8: with FRAME_CAP = 8 a discarded byte does not postpone completion. -/
theorem test_step_discardedByteDoesNotStamp :
    fill (step { framed [0x01#8, 0x03#8, 0x00#8, 0x00#8, 0x00#8, 0x01#8, 0x84#8, 0x0A#8] with
      caps := { frameCap := 8, respCap := 16 }, buf := [0x01#8, 0x03#8, 0x00#8, 0x00#8, 0x00#8, 0x01#8, 0x84#8, 0x0A#8],
      rxq := [0xBB#8] }) = some (0, 100, [0x01#8, 0x03#8, 0x02#8, 0x00#8, 0x0A#8, 0x38#8, 0x43#8]) := by
  decide +kernel

/-- A table word runs as the first instruction after reset. -/
theorem test_step_firstAfterReset :
    sent (step (State.reset.withFetchWord 8 0x03)) = some [0x01#8, 0x03#8, 0x00#8, 0x20#8, 0xF0#8] := by decide +kernel

/-- R262: a POLL step on a block whose configuration is missing has no meaning. -/
theorem test_step_pollNeedsConfiguration :
    step { State.reset with host := [.poll 0] } = .refused .missingConfiguration ∧
      sent (step { State.reset with phase := .configured, host := [.poll 0] }) = some [] := ⟨rfl, by decide⟩

/-- R262: illegal parameters, those of the instance too, are refused when the configuration is supplied. -/
theorem test_step_illegalConfiguration :
    step { State.reset with host := [.configure { slaveAddr := 0#8, count := 3, tSilence := 5 }] } = .refused .illegalConfiguration ∧
      step { State.reset with caps := { frameCap := 7, respCap := 16 }, host := [.configure State.reset.cfg] } =
        .refused .illegalConfiguration := ⟨rfl, rfl⟩

/-- U7: a clock that runs backwards is refused. -/
theorem test_step_clockBackwards : sent (step { sample with host := [.poll 99] }) = none := by decide +kernel

/-! ### Witnesses: for every statement that has hypotheses, a state and operands that meet them -/

theorem sample_parameters : sample.parametersLegal = true := by decide

/-- A good RHR 1, 0, 2 about to be completed. -/
def readFrame : State := framed [0x01#8, 0x03#8, 0x00#8, 0x00#8, 0x00#8, 0x02#8, 0xC4#8, 0x0B#8]

/-- A good WSR 1, 2, 0xFFFF about to be completed: the last legal address (V62). -/
def writeFrame : State := framed [0x01#8, 0x06#8, 0x00#8, 0x02#8, 0xFF#8, 0xFF#8, 0x29#8, 0xBA#8]

/-- The shortest valid frame, REQ 1, 0x11. -/
def shortIllegal : State := framed [0x01#8, 0x11#8, 0xC0#8, 0x2C#8]

theorem sample_inv : sample.Inv := ⟨by decide, by decide, by decide, by decide, by decide, by decide⟩

theorem readFrame_inv : readFrame.Inv := ⟨by decide, by decide, by decide, by decide, by decide, by decide⟩

theorem writeFrame_inv : writeFrame.Inv := ⟨by decide, by decide, by decide, by decide, by decide, by decide⟩

theorem shortIllegal_inv : shortIllegal.Inv := ⟨by decide, by decide, by decide, by decide, by decide, by decide⟩

theorem readFrame_polls : readFrame.polls 106 [] := ⟨by decide, by decide, by decide, by decide⟩

theorem writeFrame_polls : writeFrame.polls 106 [] := ⟨by decide, by decide, by decide, by decide⟩

theorem witness_CrcBit : (0 : Nat) < 16 ∧ (13 : Nat) < 16 ∧ (15 : Nat) < 16 := by decide

theorem witness_CrcResidue : [0x01#8, 0x02#8].length = [0x03#8, 0x04#8].length ∧ [0x03#8, 0x04#8].length = [0x05#8, 0x06#8].length := by
  decide

theorem witness_OpcodeRows : (0x04#8 : Byte) ≠ 0x03#8 ∧ (0x04#8 : Byte) ≠ 0x06#8 := by decide

theorem witness_EncodedRequests :
    ∀ i ∈ ([.rhr 0xFFFF#16 0xFFFF#16, .wsr 0x0000#16 0x8000#16, .illf80 0xFF#8, .illf40 0x7F#8, .illf20 0x20#8, .illf10 0x1F#8, .illf08 0x08#8,
      .illf00 0x01#8, .illf02 0x02#8, .illf04 0x05#8, .illf07 0x07#8] : List Instr), i.wellFormed = true := by decide

/-- The shortest and the longest frame of the 16-byte buffer. -/
theorem witness_FunctionCode :
    4 ≤ shortIllegal.len ∧ shortIllegal.len ≤ shortIllegal.buf.length ∧ 6 ≤ shortIllegal.buf.length ∧ shortIllegal.buf.getD 0 0 = 0x01#8 ∧
      crc16 (shortIllegal.buf.take (shortIllegal.len - 2)) = receivedCrc shortIllegal.buf shortIllegal.len := by decide +kernel

/-- One witness for each clause: a read, a write, any request, and the largest quantity a response can carry. -/
theorem witness_Operands :
    decode 0x01#8 readFrame.buf 8 = .ok (.rhr 0x0000#16 0x0002#16) ∧
      decode 0x01#8 writeFrame.buf 8 = .ok (.wsr 0x0002#16 0xFFFF#16) ∧
      decode 0x01#8 shortIllegal.buf 4 = .ok (.illf10 0x11#8) ∧
      capsLegal { frameCap := 8, respCap := 259 } = true ∧ (127#16 : Word).toNat ≤ maxQty { frameCap := 8, respCap := 259 } := by
  decide +kernel

/-- The first byte and the last byte of a frame. -/
theorem witness_OneCorruptedByte :
    0 < (request 0x01#8 0x11#8 []).length ∧ (request 0x01#8 0x11#8 []).getD 0 0 ≠ 0x02#8 ∧
      3 < (request 0x01#8 0x11#8 []).length ∧ (request 0x01#8 0x11#8 []).getD 3 0 ≠ 0x2D#8 := by decide +kernel

/-- The whole table, and quantity 0 at s = COUNT (V41, V46). -/
theorem witness_ReadReplies :
    capsLegal sample.caps = true ∧ (0#16 : Word).toNat + (3#16 : Word).toNat ≤ sample.cfg.count ∧ (3#16 : Word).toNat ≤ maxQty sample.caps ∧
      (3#16 : Word).toNat + (0#16 : Word).toNat ≤ sample.cfg.count ∧ (0#16 : Word).toNat ≤ maxQty sample.caps := by decide

/-- s = COUNT + 1 with q = 0, and the sum that a 16-bit adder would wrap (V47, V48). -/
theorem witness_ReadOutOfRange :
    capsLegal sample.caps = true ∧ sample.cfg.count < (4#16 : Word).toNat + (0#16 : Word).toNat ∧
      sample.cfg.count < (0xFFFF#16 : Word).toNat + (2#16 : Word).toNat := by decide

/-- V49: RESP_CAP = 9, so that MAX_QTY = 2, and q = 3 in range. -/
theorem witness_ReadAboveCapacity :
    capsLegal { frameCap := 8, respCap := 9 } = true ∧ (0#16 : Word).toNat + (3#16 : Word).toNat ≤ sample.cfg.count ∧
      maxQty { frameCap := 8, respCap := 9 } < (3#16 : Word).toNat := by decide

/-- The last legal address and the first that is not (V62, V64). -/
theorem witness_Write :
    writeFrame.Inv ∧ (2#16 : Word).toNat < writeFrame.cfg.count ∧ writeFrame.cfg.count ≤ (3#16 : Word).toNat :=
  ⟨writeFrame_inv, by decide, by decide⟩

theorem witness_WriteReplyEqualsRequest :
    writeFrame.Inv ∧ decode writeFrame.cfg.slaveAddr writeFrame.buf writeFrame.len = .ok (.wsr 0x0002#16 0xFFFF#16) ∧
      (0x0002#16 : Word).toNat < writeFrame.cfg.count := ⟨writeFrame_inv, by decide +kernel, by decide⟩

theorem witness_IllegalFunctionRows :
    capsLegal sample.caps = true ∧
      (.illf07 0x07#8 : Instr) ∈ ([.illf80 0x07#8, .illf40 0x07#8, .illf20 0x07#8, .illf10 0x07#8, .illf08 0x07#8, .illf00 0x07#8, .illf02 0x07#8,
        .illf04 0x07#8, .illf07 0x07#8] : List Instr) := by decide

/-- What the three clauses on a valid frame share. -/
def validFrame (s : State) : Prop :=
  4 ≤ s.len ∧ s.bufAt 0 = s.cfg.slaveAddr ∧ crc16 (s.buf.take (s.len - 2)) = receivedCrc s.buf s.len

theorem witness_ValidFrameIsRouted :
    (readFrame.Inv ∧ validFrame readFrame ∧ readFrame.bufAt 1 = 0x03#8) ∧ (writeFrame.Inv ∧ validFrame writeFrame ∧ writeFrame.bufAt 1 = 0x06#8) ∧
      (shortIllegal.Inv ∧ validFrame shortIllegal ∧ shortIllegal.bufAt 1 ≠ 0x03#8 ∧ shortIllegal.bufAt 1 ≠ 0x06#8) :=
  ⟨⟨readFrame_inv, ⟨by decide, by decide, by decide +kernel⟩, by decide⟩,
    ⟨writeFrame_inv, ⟨by decide, by decide, by decide +kernel⟩, by decide⟩,
    ⟨shortIllegal_inv, ⟨by decide, by decide, by decide +kernel⟩, by decide, by decide⟩⟩

theorem witness_Exception : capsLegal sample.caps = true := by decide

/-- A write in range and a read out of range, both of which answer a next state. -/
theorem witness_RequestsTouchOnly :
    Memory.wf writeFrame.cfg.count writeFrame.hr = true ∧ (∃ t, exec (.wsr 0x0002#16 0xFFFF#16) writeFrame = .next t) ∧
      ∃ t, exec (.rhr 0x0004#16 0x0000#16) sample = .next t := ⟨by decide, ⟨_, rfl⟩, ⟨_, rfl⟩⟩

/-- A table that agrees with the sample's on the two cells read and differs on the third. -/
theorem witness_ReadDependsOnItsCells :
    (∀ k, k < (2#16 : Word).toNat →
      Memory.read [(0, 10#16), (1, 20#16)] ((0#16 : Word).toNat + k) = Memory.read sample.hr ((0#16 : Word).toNat + k)) ∧
      ∃ t, exec (.rhr 0x0000#16 0x0002#16) sample = .next t := ⟨by decide, ⟨_, rfl⟩⟩

theorem witness_WrittenValueIsReadBack :
    ∃ t u : State, writeFrame.Inv ∧ exec (.wsr 0x0002#16 0xFFFF#16) writeFrame = .next t ∧ (0x0002#16 : Word).toNat < writeFrame.cfg.count ∧
      u.caps = writeFrame.caps ∧ u.cfg = writeFrame.cfg ∧ Memory.read u.hr (0x0002#16 : Word).toNat = Memory.read t.hr (0x0002#16 : Word).toNat :=
  ⟨_, writeFrame.writeCell 2 0xFFFF#16, writeFrame_inv, rfl, by decide, rfl, rfl, rfl⟩

/-- Other stale bytes after an 8-byte register access, after a 4-byte ILLF frame, and after the single byte of a frame too short to have a
function code. -/
theorem witness_StaleBytes :
    (readFrame.Inv ∧ ([0x01#8, 0x03#8, 0x00#8, 0x00#8, 0x00#8, 0x02#8, 0xC4#8, 0x0B#8] ++ List.replicate 8 0xEE#8).length = readFrame.buf.length ∧
      ([0x01#8, 0x03#8, 0x00#8, 0x00#8, 0x00#8, 0x02#8, 0xC4#8, 0x0B#8] ++ List.replicate 8 0xEE#8).take readFrame.len = readFrame.buf.take readFrame.len ∧ 8 ≤ readFrame.len) ∧
    (shortIllegal.Inv ∧ ([0x01#8, 0x11#8, 0xC0#8, 0x2C#8] ++ List.replicate 12 0xEE#8).length = shortIllegal.buf.length ∧
      ([0x01#8, 0x11#8, 0xC0#8, 0x2C#8] ++ List.replicate 12 0xEE#8).take shortIllegal.len = shortIllegal.buf.take shortIllegal.len ∧ 0 < shortIllegal.len ∧
      shortIllegal.bufAt 1 ≠ 0x03#8 ∧ shortIllegal.bufAt 1 ≠ 0x06#8) ∧
    ((framed [0x01#8]).Inv ∧ (0x01#8 :: List.replicate 15 0x03#8).length = (framed [0x01#8]).buf.length ∧
      (0x01#8 :: List.replicate 15 0x03#8).take (framed [0x01#8]).len = (framed [0x01#8]).buf.take (framed [0x01#8]).len ∧
      0 < (framed [0x01#8]).len ∧ (framed [0x01#8]).len < 4) :=
  ⟨⟨readFrame_inv, by decide, by decide, by decide⟩, ⟨shortIllegal_inv, by decide, by decide, by decide, by decide, by decide⟩,
    ⟨⟨by decide, by decide, by decide, by decide, by decide, by decide⟩, by decide, by decide, by decide, by decide⟩⟩

theorem readFrame_silent : (readFrame.atTest 106 []).silent 106 = true := by decide

theorem witness_StepRunsTheDecodedRequest :
    readFrame.polls 106 [] ∧ readFrame.rxq = [] ∧ (readFrame.atTest 106 []).silent 106 = true ∧
      decode (readFrame.atTest 106 []).cfg.slaveAddr (readFrame.atTest 106 []).buf (readFrame.atTest 106 []).len = .ok (.rhr 0x0000#16 0x0002#16) :=
  ⟨readFrame_polls, rfl, readFrame_silent, by decide +kernel⟩

/-- A buffer with room and a full one. -/
theorem witness_Collector :
    (sample.buf.length = sample.caps.frameCap ∧ sample.len ≤ sample.caps.frameCap) ∧
      (framed (List.replicate 16 0x55#8)).buf.length = (framed (List.replicate 16 0x55#8)).caps.frameCap ∧
      (framed (List.replicate 16 0x55#8)).len = (framed (List.replicate 16 0x55#8)).caps.frameCap := by decide

/-- The clauses of the silence test: it fires (elapsed 6), it does not (elapsed 5), and a byte is appended. -/
theorem witness_SilenceTest :
    (readFrame.Inv ∧ readFrame.polls 106 [] ∧ 0 < (readFrame.atTest 106 []).len ∧ readFrame.cfg.tSilence < 106 - (readFrame.atTest 106 []).tLast) ∧
    (({ readFrame with host := [.poll 105] } : State).polls 105 [] ∧
      ¬ (0 < (readFrame.atTest 105 []).len ∧ readFrame.cfg.tSilence < 105 - (readFrame.atTest 105 []).tLast)) ∧
    (({ readFrame with rxq := [0x01#8] } : State).polls 106 [] ∧ ({ readFrame with rxq := [0x01#8] } : State).rxq ≠ [] ∧
      readFrame.len < readFrame.caps.frameCap) :=
  ⟨⟨readFrame_inv, readFrame_polls, by decide, by decide⟩, ⟨⟨by decide, by decide, by decide⟩, by decide⟩, ⟨⟨by decide, by decide, by decide⟩, by decide, by decide⟩⟩

theorem witness_IdleBlock :
    State.reset.host = [] ∧ ({ sample with host := [.poll 100] } : State).polls 100 [] ∧ sample.rxq = [] ∧ sample.len = 0 :=
  ⟨by decide, ⟨by decide, by decide, by decide⟩, by decide, by decide⟩

/-- For the four statements about a POLL step that completes a frame. -/
theorem witness_CompletedFrame :
    readFrame.Inv ∧ readFrame.polls 106 [] ∧ (readFrame.atTest 106 []).silent 106 = true := ⟨readFrame_inv, readFrame_polls, readFrame_silent⟩

/-- A completed frame from a state that meets the invariant: what the drop clauses share. -/
def completed (bytes : List Byte) : Prop :=
  (framed bytes).Inv ∧ (framed bytes).polls 106 [] ∧ ((framed bytes).atTest 106 []).silent 106 = true

/-- Frames that are too short (3 bytes), for another slave, and with a bad CRC; and a full buffer. -/
theorem witness_DroppedFrames :
    (completed [0x01#8, 0x03#8, 0x00#8] ∧ ((framed [0x01#8, 0x03#8, 0x00#8]).atTest 106 []).len < 4) ∧
    (completed [0x02#8, 0x03#8, 0x00#8, 0x00#8, 0x00#8, 0x02#8, 0xC4#8, 0x38#8] ∧
      ((framed [0x02#8, 0x03#8, 0x00#8, 0x00#8, 0x00#8, 0x02#8, 0xC4#8, 0x38#8]).atTest 106 []).bufAt 0 ≠ sample.cfg.slaveAddr) ∧
    (completed [0x01#8, 0x03#8, 0x00#8, 0x00#8, 0x00#8, 0x02#8, 0xC4#8, 0x0A#8] ∧
      crc16 (((framed [0x01#8, 0x03#8, 0x00#8, 0x00#8, 0x00#8, 0x02#8, 0xC4#8, 0x0A#8]).atTest 106 []).buf.take 6) ≠
        receivedCrc ((framed [0x01#8, 0x03#8, 0x00#8, 0x00#8, 0x00#8, 0x02#8, 0xC4#8, 0x0A#8]).atTest 106 []).buf 8) ∧
    (framed (List.replicate 16 0x55#8)).caps.frameCap ≤ (framed (List.replicate 16 0x55#8)).len := by
  refine ⟨⟨⟨⟨?_, ?_, ?_, ?_, ?_, ?_⟩, ⟨?_, ?_⟩, ?_⟩, ?_⟩, ⟨⟨⟨?_, ?_, ?_, ?_, ?_, ?_⟩, ⟨?_, ?_⟩, ?_⟩, ?_⟩,
    ⟨⟨⟨?_, ?_, ?_, ?_, ?_, ?_⟩, ⟨?_, ?_⟩, ?_⟩, ?_⟩, ?_⟩ <;> decide +kernel

/-- A step that transmits: also a step that answers a next state, from a state that meets the invariant. -/
theorem witness_OnlyValidFramesAreAnswered :
    ∃ u, readFrame.Inv ∧ readFrame.polls 106 [] ∧ step readFrame = .next u ∧ u.tx ≠ readFrame.tx := by
  have h : sent (step readFrame) = some [0x01#8, 0x03#8, 0x04#8, 0x00#8, 0x0A#8, 0x00#8, 0x14#8, 0xDA#8, 0x3E#8] := by decide +kernel
  generalize hs : step readFrame = r at h
  cases r with
  | next u =>
    refine ⟨u, readFrame_inv, readFrame_polls, rfl, ?_⟩
    have ht : u.tx = [0x01#8, 0x03#8, 0x04#8, 0x00#8, 0x0A#8, 0x00#8, 0x14#8, 0xDA#8, 0x3E#8] := Option.some.inj h
    rw [ht]
    decide
  | fault r => cases h
  | refused r => cases h

theorem witness_ResetEvent : ({ sample with host := [.reset] } : State).host = .reset :: [] := by decide

/-- A state that meets the invariant, whatever the events to come. -/
theorem sample_inv_withHost (events : List HostEvent) : ({ sample with host := events } : State).Inv :=
  ⟨sample_inv.parameters, sample_inv.bufCells, sample_inv.lenBound, sample_inv.lastByteTime, sample_inv.idleBeforeFirstPoll, sample_inv.table⟩

/-- The last cell of the table, and the first that is not there. -/
theorem witness_HostWrite :
    (({ sample with host := [.hostWrite 2 5#16] } : State).Inv ∧ ({ sample with host := [.hostWrite 2 5#16] } : State).host = .hostWrite 2 5#16 :: [] ∧
      2 < sample.cfg.count) ∧
    (({ sample with host := [.hostWrite 3 5#16] } : State).Inv ∧ ({ sample with host := [.hostWrite 3 5#16] } : State).host = .hostWrite 3 5#16 :: [] ∧
      sample.cfg.count ≤ 3) :=
  ⟨⟨sample_inv_withHost _, rfl, by decide⟩, ⟨sample_inv_withHost _, rfl, by decide⟩⟩

theorem witness_ReceivedBytes : ({ sample with host := [.rx [0x01#8]] } : State).host = .rx [0x01#8] :: [] := by decide

/-- The legal configuration with the largest values (R6). -/
def legalCfg : Cfg := { slaveAddr := 247#8, count := 65536, tSilence := 0 }

/-- Slave address 247 is legal and 248 is not, a RESP_CAP of 260 is not legal (R6); after a POLL step no configuration is taken. -/
theorem witness_Configuration :
    (State.reset.phase ≠ .polled ∧ capsLegal State.reset.caps = true ∧ cfgLegal legalCfg = true) ∧
      cfgLegal { legalCfg with slaveAddr := 248#8 } = false ∧ capsLegal { frameCap := 16, respCap := 260 } = false ∧
      sample.phase = .polled := by decide

theorem witness_PollNeedsConfiguration :
    (({ State.reset with host := [.poll 0] } : State).host = .poll 0 :: [] ∧ State.reset.phase = .unconfigured) ∧
      ({ sample with host := [.reset, .poll 0] } : State).host = .reset :: .poll 0 :: [] ∧
      ({ sample with host := [.reset, .configure legalCfg, .poll 0] } : State).host = .reset :: .configure legalCfg :: .poll 0 :: [] ∧
      capsLegal sample.caps = true ∧ cfgLegal legalCfg = true := by decide

/-- One step from each phase: a reset event after a POLL step, and a configuration before one and again before one. -/
theorem witness_ConfigurationIsConstant :
    (∃ t, step { sample with host := [.reset] } = .next t ∧ sample.phase = .polled) ∧
      (∃ t, step { State.reset with host := [.configure legalCfg] } = .next t ∧ State.reset.phase = .unconfigured) ∧
      (∃ t, step { State.reset with phase := .configured, host := [.reset] } = .next t ∧ t.phase = .unconfigured) :=
  ⟨⟨_, rfl, rfl⟩, ⟨_, rfl, rfl⟩, ⟨_, rfl, rfl⟩⟩

theorem witness_PlacedTableWord : State.reset.Inv ∧ (255 : Nat) < 256 :=
  ⟨⟨by decide, by decide, by decide, by decide, by decide, by decide⟩, by decide⟩

/-- A host that keeps its duties and one that does not. -/
theorem witness_DutifulSteps :
    (readFrame.Inv ∧ readFrame.hostDutiful = true) ∧
      (({ sample with host := [.poll 99] } : State).Inv ∧ ({ sample with host := [.poll 99] } : State).hostDutiful = false) :=
  ⟨⟨readFrame_inv, by decide⟩, ⟨sample_inv_withHost _, by decide⟩⟩

/-- The invariant has the form of a table with cells in it, and fails for one that lists a cell outside COUNT. -/
theorem test_memory_wf : Memory.wf 3 sample.hr = true ∧ Memory.wf 2 sample.hr = false := by decide

/-- HR is canonical data: writing what an unlisted cell holds removes the entry (V63). -/
theorem test_memory_write : Memory.write sample.hr 1 0x0000#16 = [(0, 10#16), (2, 30#16)] := by decide

end Sys2Proof.Tests
end

section
/-! What an answered step can do, operation by operation: inversion lemmas for the requests, the handling of a frame, the POLL
step and the environment's events, and from them what a step does to the configuration (R30, R261, D26). -/

namespace Sys2Proof.Machine

open Sys2Proof

/-! ### Requests -/

/-- A read that answers a next state has transmitted, and done nothing else. -/
theorem execRhr_next {start qty : Word} {s t : State} (h : execRhr start qty s = .next t) :
    ∃ bytes, t = s.transmit bytes := by
  unfold execRhr at h
  split at h
  · exact ⟨_, (raiseException_next h).2⟩
  · split at h
    · exact ⟨_, (raiseException_next h).2⟩
    · split at h
      · exact ⟨_, (send_next h).2⟩
      · cases h

/-- A write that answers a next state has transmitted, after writing its cell when COUNT covers it. -/
theorem execWsr_next {reg val : Word} {s t : State} (h : execWsr reg val s = .next t) :
    (∃ bytes, t = s.transmit bytes) ∨
      (reg.toNat < s.cfg.count ∧ ∃ bytes, t = (s.writeCell reg.toNat val).transmit bytes) := by
  unfold execWsr at h
  split at h
  · exact .inl ⟨_, (raiseException_next h).2⟩
  · split at h
    · next hwrite =>
      obtain ⟨hin, rfl⟩ := memWrite_some hwrite
      split at h
      · exact .inr ⟨hin, _, (send_next h).2⟩
      · cases h
    · cases h

/-- Everything a request can do: transmit, and for a write inside the table put its value into its cell first. -/
theorem exec_next {i : Instr} {s t : State} (h : exec i s = .next t) :
    (∃ bytes, t = s.transmit bytes) ∨
      ∃ reg val, i = .wsr reg val ∧ reg.toNat < s.cfg.count ∧
        ∃ bytes, t = (s.writeCell reg.toNat val).transmit bytes := by
  cases i with
  | rhr start qty => exact .inl (execRhr_next h)
  | wsr reg val => exact (execWsr_next h).imp_right fun hwrite => ⟨reg, val, rfl, hwrite⟩
  | illf80 f | illf40 f | illf20 f | illf10 f | illf08 f | illf00 f | illf02 f | illf04 f | illf07 f =>
    exact .inl ⟨_, (raiseException_next h).2⟩

/-- A request changes HR and TX, and nothing else. -/
theorem exec_frame {i : Instr} {s t : State} (h : exec i s = .next t) : t = { s with hr := t.hr, tx := t.tx } := by
  obtain ⟨_, rfl⟩ | ⟨_, _, _, _, _, rfl⟩ := exec_next h
  · rfl
  · rfl

/-! ### The POLL step -/

/-- A handled frame was dropped, which changes nothing, or decoded to a request that ran. -/
theorem handleFrame_next {s t : State} (h : handleFrame s = .next t) :
    t = s ∨ ∃ i, decode s.cfg.slaveAddr s.buf s.len = .ok i ∧ exec i s = .next t := by
  unfold handleFrame at h
  split at h
  · next i hdecode => exact .inr ⟨i, hdecode, h⟩
  · exact .inl (by cases h; rfl)
  · exact .inl (by cases h; rfl)
  · exact .inl (by cases h; rfl)
  · cases h

/-- The handling of a frame changes HR and TX, and nothing else. -/
theorem handleFrame_frame {s t : State} (h : handleFrame s = .next t) : t = { s with hr := t.hr, tx := t.tx } := by
  obtain rfl | ⟨_, _, hexec⟩ := handleFrame_next h
  · rfl
  · exact exec_frame hexec

/-- Either the silence test fails and nothing happens, or the frame is handled and then cleared. -/
theorem delimit_next {now : Nat} {s t : State} (h : delimit now s = .next t) :
    (s.silent now = false ∧ t = s) ∨ (s.silent now = true ∧ ∃ u, handleFrame s = .next u ∧ t = u.clearFrame) := by
  cases hsilent : s.silent now with
  | false =>
    rw [delimit_of_not_silent hsilent] at h
    exact .inl ⟨rfl, by cases h; rfl⟩
  | true =>
    rw [delimit_of_silent hsilent] at h
    exact .inr ⟨rfl, endOfFrame_next h⟩

/-- The Frame Delimiter, handling included, changes LEN, HR and TX, and nothing else. -/
theorem delimit_frame {now : Nat} {s t : State} (h : delimit now s = .next t) :
    t = { s with len := t.len, hr := t.hr, tx := t.tx } := by
  obtain ⟨_, rfl⟩ | ⟨_, u, hhandle, rfl⟩ := delimit_next h
  · rfl
  · rw [handleFrame_frame hhandle]
    rfl

/-- Collecting notes the clock and that a POLL step has happened, empties RXQ, and writes BUF, LEN and T_LAST. -/
theorem afterCollect_frame (s : State) (now : Nat) :
    s.afterCollect now =
      { s with
        phase := .polled
        buf := (s.afterCollect now).buf
        len := (s.afterCollect now).len
        tLast := (s.afterCollect now).tLast
        rxq := []
        now := now } :=
  collectBytes_frame now (s.notePoll now).emptyQueue s.rxq

/-- A POLL step that answers passed the three guards and is the silence test on the state that has collected. -/
theorem poll_next {now : Nat} {s t : State} (h : poll now s = .next t) :
    s.phase ≠ .unconfigured ∧ s.parametersLegal = true ∧ s.now ≤ now ∧ delimit now (s.afterCollect now) = .next t := by
  unfold poll at h
  split at h
  · cases h
  · next hsupplied =>
    split at h
    · cases h
    · next hlegal =>
      split at h
      · cases h
      · next hclock =>
        exact ⟨(cfgSupplied_iff s).mp (by simpa using hsupplied), by simpa using hlegal, by omega, h⟩

/-- A POLL step leaves the capacities, CFG, the environment's events and the count of resets alone, and marks CFG as
constant. -/
theorem poll_frame {now : Nat} {s t : State} (h : poll now s = .next t) :
    t = { s with
      phase := .polled
      buf := t.buf
      len := t.len
      tLast := t.tLast
      hr := t.hr
      rxq := []
      tx := t.tx
      now := now } := by
  obtain ⟨_, _, _, hdelimit⟩ := poll_next h
  rw [delimit_frame hdelimit, afterCollect_frame]

/-! ### The environment's events -/

/-- A host write that answers wrote the one cell it names, which the table has. -/
theorem hostWrite_next {i : Nat} {v : Word} {s t : State} (h : hostWrite i v s = .next t) :
    i < s.cfg.count ∧ t = s.writeCell i v := by
  unfold hostWrite at h
  split at h
  · next hin => exact ⟨hin, by cases h; rfl⟩
  · cases h

/-- A configuration that is accepted came before the first POLL step and is legal. -/
theorem configure_next {cfg : Cfg} {s t : State} (h : configure cfg s = .next t) :
    s.phase ≠ .polled ∧ capsLegal s.caps = true ∧ cfgLegal cfg = true ∧ t = s.configured cfg := by
  unfold configure at h
  split at h
  · cases h
  · next hopen =>
    split at h
    · cases h
    · next hlegal =>
      simp only [Bool.not_eq_true, Bool.not_eq_false', Bool.and_eq_true] at hopen hlegal
      exact ⟨(cfgOpen_iff s).mp hopen, hlegal.1, hlegal.2, by cases h; rfl⟩

/-- A step either found no event, or ran the next one on the state without it. -/
theorem step_next {s t : State} (h : step s = .next t) :
    (s.host = [] ∧ t = s) ∨ ∃ e rest, s.host = e :: rest ∧ runEvent e (s.withHost rest) = .next t := by
  cases hhost : s.host with
  | nil =>
    rw [step_of_noEvent hhost] at h
    exact .inl ⟨rfl, by cases h; rfl⟩
  | cons e rest =>
    rw [step_of_event hhost] at h
    exact .inr ⟨e, rest, rfl, h⟩

/-! ### The configuration -/

/-- The four things an answered step can do to the capacities, CFG and the phase, with the events that do the last two. -/
theorem step_configuration_cases {s t : State} (h : step s = .next t) :
    t.caps = s.caps ∧
      ((t.cfg = s.cfg ∧ t.phase = s.phase) ∨
        (t.cfg = s.cfg ∧ s.phase ≠ .unconfigured ∧ t.phase = .polled) ∨
        (t.cfg = s.cfg ∧ t.phase = .unconfigured ∧ ∃ rest, s.host = .reset :: rest) ∨
        (s.phase ≠ .polled ∧ t.phase = .configured ∧ cfgLegal t.cfg = true ∧
          ∃ rest, s.host = .configure t.cfg :: rest)) := by
  obtain ⟨_, rfl⟩ | ⟨e, rest, hhost, hrun⟩ := step_next h
  · exact ⟨rfl, .inl ⟨rfl, rfl⟩⟩
  · cases e with
    | rx bytes =>
      cases hrun
      exact ⟨rfl, .inl ⟨rfl, rfl⟩⟩
    | poll now =>
      obtain ⟨hsupplied, _⟩ := poll_next hrun
      rw [poll_frame hrun]
      exact ⟨rfl, .inr (.inl ⟨rfl, hsupplied, rfl⟩)⟩
    | hostWrite i v =>
      obtain ⟨_, rfl⟩ := hostWrite_next hrun
      exact ⟨rfl, .inl ⟨rfl, rfl⟩⟩
    | reset =>
      cases hrun
      exact ⟨rfl, .inr (.inr (.inl ⟨rfl, rfl, rest, hhost⟩))⟩
    | configure cfg =>
      obtain ⟨hopen, _, hlegal, rfl⟩ := configure_next hrun
      exact ⟨rfl, .inr (.inr (.inr ⟨hopen, rfl, hlegal, rest, hhost⟩))⟩

/-- Settles O41, by the four things a step can do to the configuration: keep it, poll, reset, or accept a new one. -/
theorem configurationIsConstantFromFirstPollToReset : Obligations.ConfigurationIsConstantFromFirstPollToReset := by
  intro s t h
  obtain ⟨hcaps, hkept | hpolled | hreset | hconfigured⟩ := step_configuration_cases h
  · obtain ⟨hcfg, hphase⟩ := hkept
    simp +contextual [hcaps, hcfg, hphase]
  · obtain ⟨hcfg, hsupplied, hphase⟩ := hpolled
    simp [hcaps, hcfg, hphase, hsupplied]
  · obtain ⟨hcfg, hphase, rest, hhost⟩ := hreset
    simp [hcaps, hcfg, hphase, hhost]
  · obtain ⟨hopen, hphase, hlegal, rest, hhost⟩ := hconfigured
    simp [hcaps, hphase, hopen, hlegal, hhost]

end Sys2Proof.Machine
end

section
/-! What the decoder accepts and what it then answers: the inversion lemmas for the validator and the dispatcher, and from them
the selection by the function code (R89) and the operand fields (R87, D12). -/

namespace Sys2Proof.Machine

open Sys2Proof

/-! ### Field values -/

/-- The value of a field sent high byte first (R87). -/
theorem be16_toNat (hi lo : Byte) : (be16 hi lo).toNat = 256 * hi.toNat + lo.toNat := by
  have hshift : (hi.setWidth 16 <<< 8).toNat = hi.toNat <<< 8 := by
    simp [Nat.shiftLeft_eq]
    omega
  rw [be16, BitVec.toNat_or, hshift, BitVec.toNat_setWidth_of_le (by decide),
    ← Nat.shiftLeft_add_eq_or_of_lt lo.isLt, Nat.shiftLeft_eq, Nat.mul_comm]

/-- The value of a CRC field, sent low byte first (R87). -/
theorem le16_toNat (lo hi : Byte) : (le16 lo hi).toNat = lo.toNat + 256 * hi.toNat := by
  rw [le16, BitVec.or_comm, ← be16, be16_toNat, Nat.add_comm]

/-- Operands that are found stand at indices 2 to 5. -/
theorem registerOperands_some {buf : List Byte} {a v : Word} (h : registerOperands buf = some (a, v)) :
    a = be16 (buf.getD 2 0) (buf.getD 3 0) ∧ v = be16 (buf.getD 4 0) (buf.getD 5 0) := by
  unfold registerOperands at h
  split at h
  · cases h
    exact ⟨rfl, rfl⟩
  · cases h

/-- The operands of a register access as numbers (R87). -/
theorem registerOperands_toNat {buf : List Byte} {a v : Word} (h : registerOperands buf = some (a, v)) :
    a.toNat = 256 * (buf.getD 2 0).toNat + (buf.getD 3 0).toNat ∧
      v.toNat = 256 * (buf.getD 4 0).toNat + (buf.getD 5 0).toNat := by
  obtain ⟨rfl, rfl⟩ := registerOperands_some h
  exact ⟨be16_toNat _ _, be16_toNat _ _⟩

/-! ### The validator -/

/-- The decoder accepts exactly the frames whose bytes are there and that pass the length, address and CRC tests; the rest is
the dispatcher's (R130 to R135). -/
theorem decode_ok_iff {addr : Byte} {buf : List Byte} {n : Nat} {i : Instr} :
    decode addr buf n = .ok i ↔
      4 ≤ n ∧ n ≤ buf.length ∧ buf.getD 0 0 = addr ∧ crc16 (buf.take (n - 2)) = receivedCrc buf n ∧
        decodeFunction (buf.getD 1 0) buf = .ok i := by
  unfold decode
  split_ifs <;> simp_all

/-! ### The dispatcher -/

/-- An ILLF row carries the function code it was selected by. -/
@[simp] theorem func_illegalFunctionRow (f : Byte) : (illegalFunctionRow f).func = f := by
  unfold illegalFunctionRow
  split_ifs <;> rfl

/-- Every code but the two register accesses matches the row it is sent to (R90). -/
theorem wellFormed_illegalFunctionRow : ∀ f : Byte, f ≠ 0x03#8 → f ≠ 0x06#8 → (illegalFunctionRow f).wellFormed = true := by
  decide +kernel

/-- The three things the dispatcher can answer. -/
theorem decodeFunction_ok {f : Byte} {buf : List Byte} {i : Instr} (h : decodeFunction f buf = .ok i) :
    (f = 0x03#8 ∧ ∃ start qty, registerOperands buf = some (start, qty) ∧ i = .rhr start qty) ∨
      (f = 0x06#8 ∧ ∃ reg val, registerOperands buf = some (reg, val) ∧ i = .wsr reg val) ∨
      (f ≠ 0x03#8 ∧ f ≠ 0x06#8 ∧ i = illegalFunctionRow f) := by
  unfold decodeFunction at h
  split at h
  · next h3 =>
    split at h
    · next start qty hops => exact .inl ⟨h3, start, qty, hops, by cases h; rfl⟩
    · cases h
  · next h3 =>
    split at h
    · next h6 =>
      split at h
      · next reg val hops => exact .inr (.inl ⟨h6, reg, val, hops, by cases h; rfl⟩)
      · cases h
    · next h6 => exact .inr (.inr ⟨h3, h6, by cases h; rfl⟩)

/-- With the four operand cells there, every function code selects a request. -/
theorem decodeFunction_total (f : Byte) {buf : List Byte} (h : 6 ≤ buf.length) : ∃ i, decodeFunction f buf = .ok i := by
  unfold decodeFunction
  rw [registerOperands_eq buf h]
  split_ifs
  · exact ⟨_, rfl⟩
  · exact ⟨_, rfl⟩
  · exact ⟨_, rfl⟩

/-- The request the dispatcher answers is well formed, carries the function code, and is a register access for 0x03 and 0x06
alone. -/
theorem decodeFunction_selects {f : Byte} {buf : List Byte} {i : Instr} (h : decodeFunction f buf = .ok i) :
    i.wellFormed = true ∧ i.func = f ∧
      ((∃ start qty, i = .rhr start qty) ↔ f = 0x03#8) ∧ ((∃ reg val, i = .wsr reg val) ↔ f = 0x06#8) := by
  obtain ⟨rfl, start, qty, _, rfl⟩ | ⟨rfl, reg, val, _, rfl⟩ | ⟨h3, h6, rfl⟩ := decodeFunction_ok h
  · simp [Instr.wellFormed, Instr.func]
  · simp [Instr.wellFormed, Instr.func]
  · have hfunc := func_illegalFunctionRow f
    refine ⟨wellFormed_illegalFunctionRow f h3 h6, hfunc, iff_of_false ?_ h3, iff_of_false ?_ h6⟩
    · rintro ⟨start, qty, hrow⟩
      exact h3 (hfunc.symm.trans (congrArg Instr.func hrow))
    · rintro ⟨reg, val, hrow⟩
      exact h6 (hfunc.symm.trans (congrArg Instr.func hrow))

/-- A frame that decodes to a register access holds its operands in the cells the dispatcher reads. -/
theorem registerOperands_of_decode {addr : Byte} {buf : List Byte} {n : Nat} {i : Instr} {a v : Word}
    (h : decode addr buf n = .ok i) (hi : i = .rhr a v ∨ i = .wsr a v) : registerOperands buf = some (a, v) := by
  obtain ⟨_, _, _, _, hdispatch⟩ := decode_ok_iff.mp h
  obtain ⟨_, hfunc, _⟩ := decodeFunction_selects hdispatch
  obtain ⟨_, _, _, hops, rfl⟩ | ⟨_, _, _, hops, rfl⟩ | ⟨h3, h6, _⟩ := decodeFunction_ok hdispatch
  · simpa [hops] using hi
  · simpa [hops] using hi
  · obtain rfl | rfl := hi
    · exact absurd hfunc.symm h3
    · exact absurd hfunc.symm h6

/-! ### The obligations -/

/-- Settles O7: a frame that passes the tests is the dispatcher's, and the dispatcher goes by the function code. -/
theorem functionCodeAloneSelectsRequest : Obligations.FunctionCodeAloneSelectsRequest := by
  intro addr buf n hlen hcells hoperands haddr hcrc
  obtain ⟨i, hdispatch⟩ := decodeFunction_total (buf.getD 1 0) hoperands
  exact ⟨i, decode_ok_iff.mpr ⟨hlen, hcells, haddr, hcrc, hdispatch⟩, decodeFunction_selects hdispatch⟩

/-- Settles O8, field by field: the operands from the dispatcher's cells, the CRC from the validator's test, the byte count from
the bound on MAX_QTY. -/
theorem operandsAreUnsignedFieldsAtFixedIndices : Obligations.OperandsAreUnsignedFieldsAtFixedIndices := by
  refine ⟨fun addr buf n start qty h => ?_, fun addr buf n reg val h => ?_, fun addr buf n i h => ?_,
    fun caps qty hcaps hqty => ?_⟩
  · exact registerOperands_toNat (registerOperands_of_decode h (.inl rfl))
  · exact registerOperands_toNat (registerOperands_of_decode h (.inr rfl))
  · obtain ⟨_, _, _, hcrc, _⟩ := decode_ok_iff.mp h
    rw [hcrc]
    exact le16_toNat _ _
  · exact byteCount_toNat qty (hqty.trans (maxQty_bound hcaps).1)

end Sys2Proof.Machine
end

section
/-! What a valid frame runs: the bounds the invariant gives, the decoded request, and the answer of the ILLF rows (R136). -/

namespace Sys2Proof.Machine

open Sys2Proof

/-! ### Bounds from the invariant -/

theorem State.Inv.legalCaps {s : State} (h : s.Inv) : capsLegal s.caps = true :=
  ((parametersLegal_iff s).mp h.parameters).1

/-- BUF holds every byte of the frame. -/
theorem State.Inv.len_le_buf_length {s : State} (h : s.Inv) : s.len ≤ s.buf.length :=
  h.lenBound.trans_eq h.bufCells.symm

/-- BUF has at least the 8 cells of R6, the operand cells among them. -/
theorem State.Inv.eight_le_buf_length {s : State} (h : s.Inv) : 8 ≤ s.buf.length :=
  ((capsLegal_iff s.caps).mp h.legalCaps).1.trans_eq h.bufCells.symm

/-! ### The dispatcher -/

/-- The operands of a register access, short frames included, are the fields at indices 2 to 5 (R151, R166, D12). -/
theorem registerOperands_buf {s : State} (h : s.Inv) :
    registerOperands s.buf = some (s.frameAddress, s.frameData) :=
  registerOperands_eq s.buf (Nat.le_trans (by decide) h.eight_le_buf_length)

theorem decodeFunction_read {buf : List Byte} {start qty : Word} (h : registerOperands buf = some (start, qty)) :
    decodeFunction 0x03#8 buf = .ok (.rhr start qty) := by
  simp [decodeFunction, h]

theorem decodeFunction_write {buf : List Byte} {reg val : Word} (h : registerOperands buf = some (reg, val)) :
    decodeFunction 0x06#8 buf = .ok (.wsr reg val) := by
  simp [decodeFunction, h]

/-- A frame that passes the length, address and CRC tests runs the request the dispatcher selects by its function code. -/
theorem handleFrame_of_valid {s : State} {i : Instr} (hinv : s.Inv) (hlen : 4 ≤ s.len)
    (haddr : s.bufAt 0 = s.cfg.slaveAddr) (hcrc : crc16 (s.buf.take (s.len - 2)) = receivedCrc s.buf s.len)
    (hdispatch : decodeFunction (s.bufAt 1) s.buf = .ok i) : handleFrame s = exec i s := by
  have hdecode : decode s.cfg.slaveAddr s.buf s.len = .ok i :=
    decode_ok_iff.mpr ⟨hlen, hinv.len_le_buf_length, haddr, hcrc, hdispatch⟩
  unfold handleFrame
  rw [hdecode]

/-! ### The ILLF rows -/

/-- Whichever ILLF row a function code selects, running it raises IllegalFunction with that code (R186). -/
theorem exec_illegalFunctionRow (f : Byte) (s : State) : exec (illegalFunctionRow f) s = raiseIllegalFunction f s := by
  unfold illegalFunctionRow
  split_ifs <;> rfl

/-- With legal capacities the exception reply always fits the response buffer (R6, R185). -/
theorem raiseException_eq_of_legalCaps {s : State} (f e : Byte) (h : capsLegal s.caps = true) :
    raiseException f e s = .next (s.transmit (withCrc [s.cfg.slaveAddr, errorFunction f, e])) := by
  have hbounds := (capsLegal_iff s.caps).mp h
  exact raiseException_eq f e (by omega)

/-! ### The obligation -/

/-- Settles O16, code by code: the dispatcher's request for 0x03, for 0x06, and for every other code its ILLF row. -/
theorem validFrameIsRoutedByItsFunctionCode : Obligations.ValidFrameIsRoutedByItsFunctionCode := by
  intro s hinv hlen haddr hcrc
  have hroute {i : Instr} (hdispatch : decodeFunction (s.bufAt 1) s.buf = .ok i) : handleFrame s = exec i s :=
    handleFrame_of_valid hinv hlen haddr hcrc hdispatch
  have hoperands := registerOperands_buf hinv
  refine ⟨fun hread => ?_, fun hwrite => ?_, fun hnoRead hnoWrite => ?_⟩
  · exact hroute (by rw [hread, decodeFunction_read hoperands])
  · exact hroute (by rw [hwrite, decodeFunction_write hoperands])
  · calc handleFrame s
        = exec (illegalFunctionRow (s.bufAt 1)) s := hroute (Laws.decodeFunction_illegal hnoRead hnoWrite s.buf)
      _ = raiseIllegalFunction (s.bufAt 1) s := exec_illegalFunctionRow _ s
      _ = .next (s.transmit (withCrc [s.cfg.slaveAddr, s.bufAt 1 ||| 0x80#8, 0x01#8])) :=
        raiseException_eq_of_legalCaps _ _ hinv.legalCaps

end Sys2Proof.Machine
end

section
/-! RHR outside the register table: the exact bounds check and the read it rejects as a whole (R55, R153). -/

namespace Sys2Proof.Machine

open Sys2Proof

/-- RHR's bounds check fails exactly when the sum of the operands, which does not wrap, exceeds COUNT (R55, D14). -/
theorem readInRange_eq_false_iff (s : State) (start qty : Word) :
    s.readInRange start qty = false ↔ s.cfg.count < start.toNat + qty.toNat := by
  simp [State.readInRange]

/-- A read that fails the bounds check raises IllegalDataAddress, whatever its quantity, and reads no cell (R153). -/
theorem execRhr_of_not_readInRange {s : State} {start qty : Word} (h : s.readInRange start qty = false) :
    execRhr start qty s = raiseIllegalDataAddress 0x03#8 s := by
  simp [execRhr, h]

/-- Settles O11: the bounds check fails, and with legal capacities the exception reply it raises fits the response buffer. -/
theorem readOutOfRangeRaisesIllegalDataAddress : Obligations.ReadOutOfRangeRaisesIllegalDataAddress := by
  intro start qty s hcaps hrange
  calc exec (.rhr start qty) s
      = raiseIllegalDataAddress 0x03#8 s :=
        execRhr_of_not_readInRange ((readInRange_eq_false_iff s start qty).mpr hrange)
    _ = .next (s.transmit (withCrc [s.cfg.slaveAddr, 0x83#8, 0x02#8])) :=
      raiseException_eq_of_legalCaps 0x03#8 0x02#8 hcaps

end Sys2Proof.Machine
end

section
/-! WSR: its bounds check, the write with its echo inside the register table, and the rejection outside it (R165, R168, D13). -/

namespace Sys2Proof.Machine

open Sys2Proof

/-! ### Outside the table -/

/-- WSR's bounds check fails exactly when the address is not below COUNT (R55, R168). -/
theorem writeInRange_eq_false_iff (s : State) (reg : Word) : s.writeInRange reg = false ↔ s.cfg.count ≤ reg.toNat := by
  simp [State.writeInRange]

/-- A write that fails the bounds check raises IllegalDataAddress and writes no cell (R168). -/
theorem execWsr_of_not_writeInRange {s : State} {reg : Word} (val : Word) (h : s.writeInRange reg = false) :
    execWsr reg val s = raiseIllegalDataAddress 0x06#8 s := by
  simp [execWsr, h]

/-! ### Inside the table -/

/-- A write whose address is below COUNT passes the bounds check, writes its cell, and sends the first LEN - 2 bytes of BUF,
which BUF has (R165, R167). -/
theorem execWsr_of_lt_count {s : State} {reg : Word} (val : Word) (hreg : reg.toNat < s.cfg.count)
    (hbuf : s.len - 2 ≤ s.buf.length) :
    execWsr reg val s = send (s.buf.take (s.len - 2)) (s.writeCell reg.toNat val) := by
  have hecho : frameBytes (s.writeCell reg.toNat val) (s.len - 2) = some (s.buf.take (s.len - 2)) := frameBytes_eq hbuf
  simp [execWsr, State.writeInRange, hreg, memWrite_eq, hecho]

/-- The echo with its CRC fits the response buffer, since LEN <= FRAME_CAP <= RESP_CAP (R6); a frame too short to echo
anything leaves the two bytes of the CRC. -/
theorem State.Inv.echo_fits {s : State} (h : s.Inv) : (s.buf.take (s.len - 2)).length + 2 ≤ s.caps.respCap := by
  have hcaps := (capsLegal_iff s.caps).mp h.legalCaps
  have hlen := h.lenBound
  rw [List.length_take]
  omega

/-- A write in range puts the value into its cell and transmits the echo with a fresh CRC (R165, R169). -/
theorem exec_wsr_of_lt_count {s : State} {reg : Word} (val : Word) (hinv : s.Inv) (hreg : reg.toNat < s.cfg.count) :
    exec (.wsr reg val) s =
      .next ((s.writeCell reg.toNat val).transmit (withCrc (s.buf.take (s.len - 2)))) :=
  calc exec (.wsr reg val) s
      = send (s.buf.take (s.len - 2)) (s.writeCell reg.toNat val) :=
        execWsr_of_lt_count val hreg ((Nat.sub_le _ _).trans hinv.len_le_buf_length)
    _ = .next ((s.writeCell reg.toNat val).transmit (withCrc (s.buf.take (s.len - 2)))) := send_eq hinv.echo_fits

/-! ### The obligation -/

/-- Settles O13: in range the table is HR with one cell written, whose reads and form are the memory's laws; out of range the
bounds check fails and the exception reply fits the response buffer. -/
theorem writeStoresOneCellAndEchoesOrIsRejected : Obligations.WriteStoresOneCellAndEchoesOrIsRejected := by
  intro reg val s hinv
  refine ⟨fun hin => ?_, fun hout => ?_⟩
  · have hread := Memory.read_write hinv.table reg.toNat val
    refine ⟨Memory.write s.hr reg.toNat val, exec_wsr_of_lt_count val hinv hin, ?_, fun a ha => ?_,
      Memory.wf_write hinv.table val hin⟩
    · rw [hread, if_pos rfl]
    · rw [hread, if_neg ha]
  · calc exec (.wsr reg val) s
        = raiseIllegalDataAddress 0x06#8 s :=
          execWsr_of_not_writeInRange val ((writeInRange_eq_false_iff s reg).mpr hout)
      _ = .next (s.transmit (withCrc [s.cfg.slaveAddr, 0x86#8, 0x02#8])) :=
        raiseException_eq_of_legalCaps 0x06#8 0x02#8 hinv.legalCaps

end Sys2Proof.Machine
end

section
/-! The Exception Responder: the function byte of its reply, the five bytes it sends, and the nine ILLF rows that raise
IllegalFunction (R180, R181, R186). -/

namespace Sys2Proof.Machine

open Sys2Proof

/-! ### The function byte of an exception reply -/

/-- An exception reply has bit 7 of its function byte set (R181). -/
theorem errorFunction_bit_seven (f : Byte) : (errorFunction f).getLsbD 7 = true := by
  simp [errorFunction]

/-- An exception reply returns bits 6:0 of the function code it answers (R181). -/
theorem errorFunction_bit_of_lt_seven (f : Byte) {i : Nat} (hi : i < 7) :
    (errorFunction f).getLsbD i = f.getLsbD i := by
  have hmask : ∀ k < 7, (0x80#8).getLsbD k = false := by decide
  rw [errorFunction, BitVec.getLsbD_or, hmask i hi, Bool.or_false]

/-- Settles O17: the reply fits the response buffer, SEND appends its CRC low byte first, and the function byte is the code with
bit 7 set. -/
theorem exceptionSavesNothingAndSendsFiveBytes : Obligations.ExceptionSavesNothingAndSendsFiveBytes := by
  intro f e s hcaps
  have hsent := raiseException_eq_of_legalCaps f e hcaps
  rw [withCrc_eq] at hsent
  exact ⟨⟨errorFunction f, crc16 [s.cfg.slaveAddr, errorFunction f, e], hsent, rfl, errorFunction_bit_seven f,
    fun _ hi => errorFunction_bit_of_lt_seven f hi⟩, rfl, rfl⟩

/-! ### The ILLF rows -/

/-- Each ILLF constructor raises IllegalFunction with the code it carries, whether or not that code matches the constructor's row
(R186). -/
theorem exec_illegalFunction {f : Byte} {i : Instr} (s : State)
    (hi : i ∈ [Instr.illf80 f, .illf40 f, .illf20 f, .illf10 f, .illf08 f, .illf00 f, .illf02 f, .illf04 f, .illf07 f]) :
    exec i s = raiseIllegalFunction f s := by
  simp only [List.mem_cons, List.not_mem_nil, or_false] at hi
  obtain rfl | rfl | rfl | rfl | rfl | rfl | rfl | rfl | rfl := hi
  all_goals rfl

/-- Settles O15: every row raises IllegalFunction, and with legal capacities the reply fits the response buffer. -/
theorem illegalFunctionRowsAnswerWithCodeOne : Obligations.IllegalFunctionRowsAnswerWithCodeOne := by
  intro f s hcaps i hi
  calc exec i s
      = raiseIllegalFunction f s := exec_illegalFunction s hi
    _ = .next (s.transmit (withCrc [s.cfg.slaveAddr, f ||| 0x80#8, 0x01#8])) :=
      raiseException_eq_of_legalCaps f 0x01#8 hcaps

end Sys2Proof.Machine
end

section
/-! The bit step of the CRC, bit by bit: the logical shift, the taps of the constant, and the two together (R197). -/

namespace Sys2Proof.Machine

open Sys2Proof

/-- The shift is logical: a zero enters bit 15 (R197). -/
theorem getLsbD_ushiftRight_one (acc : Word) (i : Nat) :
    (acc >>> 1).getLsbD i = if i = 15 then false else acc.getLsbD (i + 1) := by
  rw [BitVec.getLsbD_ushiftRight, Nat.add_comm]
  split
  case isTrue h => subst h; exact BitVec.getLsbD_of_ge acc 16 le_rfl
  case isFalse => rfl

/-- 0xA001 is binary 1010 0000 0000 0001 (R197). -/
theorem getLsbD_crcConstant :
    ∀ i < 16, (0xA001#16 : Word).getLsbD i = decide (i = 15 ∨ i = 13 ∨ i = 0) := by decide

/-- The bit shifted out selects whether the constant inverts its taps. -/
theorem getLsbD_crcBit (acc : Word) (i : Nat) :
    (crcBit acc).getLsbD i = ((acc >>> 1).getLsbD i ^^ (acc.getLsbD 0 && (0xA001#16 : Word).getLsbD i)) := by
  unfold crcBit
  split
  case isTrue h => rw [h, Bool.true_and, BitVec.getLsbD_xor]
  case isFalse h => rw [Bool.eq_false_of_not_eq_true h, Bool.false_and, Bool.xor_false]

/-- Settles O2: the shifted bit, inverted at the constant's taps when bit 0 of ACC was 1. -/
theorem crcBitIsAShiftRegisterWithThreeTaps : Obligations.CrcBitIsAShiftRegisterWithThreeTaps := by
  intro acc i hi
  rw [getLsbD_crcBit, getLsbD_ushiftRight_one, getLsbD_crcConstant i hi]

end Sys2Proof.Machine
end

section
/-! The outcome of a completed frame: the state at the silence test keeps the invariant, a frame that fails one of the validator's
tests leaves no trace, and any other has the outcome of the closed list (R223, R224, R226). -/

namespace Sys2Proof.Machine

open Sys2Proof

/-! ### The state at the silence test -/

/-- Appending a byte where there is room, stamped with the clock, keeps the invariant once a POLL step has happened (R111). -/
theorem State.Inv.appendByte {s : State} {t : Nat} (h : s.Inv) (hroom : s.len < s.caps.frameCap)
    (hphase : s.phase = .polled) (hnow : s.now = t) (b : Byte) : (s.appendByte t b).Inv where
  parameters := h.parameters
  bufCells := by simpa using h.bufCells
  lenBound := hroom
  lastByteTime := fun _ => hnow.ge
  idleBeforeFirstPoll := fun hne => absurd hphase hne
  table := h.table

/-- Collecting any number of bytes keeps the invariant: each is appended where there is room, or leaves no trace (R111, R112). -/
theorem State.Inv.collectBytes {s : State} {t : Nat} (h : s.Inv) (hphase : s.phase = .polled) (hnow : s.now = t)
    (rx : List Byte) : (s.collectBytes t rx).Inv := by
  induction rx generalizing s with
  | nil => exact h
  | cons b rx ih =>
    rw [collectBytes_cons]
    obtain ⟨hroom, happend⟩ | ⟨_, hdiscard⟩ := collectByte_cases t s b
    · rw [happend]
      exact ih (h.appendByte hroom hphase hnow b) hphase hnow
    · rw [hdiscard]
      exact ih h hphase hnow

/-- A POLL step whose clock does not run backwards reaches its silence test in a state that meets the invariant. -/
theorem State.Inv.afterCollect {s : State} {t : Nat} (h : s.Inv) (hclock : s.now ≤ t) : (s.afterCollect t).Inv := by
  have hnoted : (s.notePoll t).emptyQueue.Inv :=
    { parameters := h.parameters
      bufCells := h.bufCells
      lenBound := h.lenBound
      lastByteTime := fun hlen => (h.lastByteTime hlen).trans hclock
      idleBeforeFirstPoll := fun hne => absurd rfl hne
      table := h.table }
  exact hnoted.collectBytes rfl rfl s.rxq

/-- The events still to come play no part in the invariant. -/
theorem State.Inv.withHost {s : State} (h : s.Inv) (rest : List HostEvent) : (s.withHost rest).Inv :=
  ⟨h.parameters, h.bufCells, h.lenBound, h.lastByteTime, h.idleBeforeFirstPoll, h.table⟩

theorem State.Inv.atTest {s : State} {t : Nat} {rest : List HostEvent} (h : s.Inv) (hpolls : s.polls t rest) :
    (s.atTest t rest).Inv := by
  obtain ⟨_, _, _, hclock⟩ := hpolls
  exact (h.withHost rest).afterCollect hclock

@[simp] theorem State.atTest_cfg (s : State) (t : Nat) (rest : List HostEvent) : (s.atTest t rest).cfg = s.cfg := by
  rw [State.atTest, afterCollect_frame]
  rfl

@[simp] theorem State.atTest_tx (s : State) (t : Nat) (rest : List HostEvent) : (s.atTest t rest).tx = s.tx := by
  rw [State.atTest, afterCollect_frame]
  rfl

/-- A POLL step that happens is the silence test on the state that has collected every waiting byte (R110). -/
theorem step_of_polls {s : State} {t : Nat} {rest : List HostEvent} (hpolls : s.polls t rest) :
    step s = delimit t (s.atTest t rest) := by
  obtain ⟨hhost, hsupplied, hlegal, hclock⟩ := hpolls
  rw [step_of_event hhost]
  exact poll_eq_delimit hsupplied hlegal hclock

/-- The step that completes a frame handles it and then clears the buffer (R114). -/
theorem step_of_silent {s : State} {t : Nat} {rest : List HostEvent} (hpolls : s.polls t rest)
    (hsilent : (s.atTest t rest).silent t = true) : step s = endOfFrame (handleFrame (s.atTest t rest)) := by
  rw [step_of_polls hpolls, delimit_of_silent hsilent]

/-! ### Dropped frames -/

/-- A frame whose bytes are there and that fails the length, address or CRC test is rejected for one of these three reasons
(R131 to R133). -/
theorem decode_of_invalid {addr : Byte} {buf : List Byte} {n : Nat} (hcells : n ≤ buf.length)
    (h : n < 4 ∨ buf.getD 0 0 ≠ addr ∨ crc16 (buf.take (n - 2)) ≠ receivedCrc buf n) :
    ∃ reason, decode addr buf n = .error reason ∧ reason ≠ .missingCells := by
  unfold decode
  split_ifs with hshort hmissing haddr hcrc
  · exact ⟨.tooShort, rfl, by decide⟩
  · omega
  · exact ⟨.otherAddress, rfl, by decide⟩
  · exact ⟨.badCrc, rfl, by decide⟩
  · obtain hbad | hbad | hbad := h
    · exact absurd hbad hshort
    · exact absurd hbad haddr
    · exact absurd hbad hcrc

/-- A frame that fails the length, address or CRC test is dropped (R223). -/
theorem handleFrame_of_invalid {s : State} (hinv : s.Inv)
    (h : s.len < 4 ∨ s.bufAt 0 ≠ s.cfg.slaveAddr ∨ crc16 (s.buf.take (s.len - 2)) ≠ receivedCrc s.buf s.len) :
    handleFrame s = .next s := by
  obtain ⟨reason, hdecode, hreason⟩ := decode_of_invalid hinv.len_le_buf_length h
  unfold handleFrame
  rw [hdecode]
  cases reason with
  | tooShort | otherAddress | badCrc => rfl
  | missingCells => exact absurd rfl hreason

/-- Settles O28: the dropped frame is handled without effect, so that only the clear remains, and a byte that finds no room is
discarded. -/
theorem droppedFramesLeaveNoTrace : Obligations.DroppedFramesLeaveNoTrace := by
  refine ⟨fun s t rest hinv hpolls hsilent hbad => ?_, fun s t b hfull => collectByte_eq_of_full t b hfull⟩
  rw [← State.atTest_cfg s t rest] at hbad
  rw [step_of_silent hpolls hsilent, handleFrame_of_invalid (hinv.atTest hpolls) hbad]
  rfl

/-! ### Reads inside the table -/

/-- A read in range of more registers than a reply can carry is answered with exception 0x02 (R154, D9). -/
theorem exec_rhr_of_maxQty_lt {start qty : Word} {s : State} (hcaps : capsLegal s.caps = true)
    (hrange : start.toNat + qty.toNat ≤ s.cfg.count) (hqty : maxQty s.caps < qty.toNat) :
    exec (.rhr start qty) s = .next (s.transmit (s.exceptionReply 0x03#8 0x02#8)) := by
  have hraise : execRhr start qty s = raiseIllegalDataAddress 0x03#8 s := by
    simp [execRhr, State.readInRange, State.readFits, hrange, hqty]
  exact hraise.trans (raiseException_eq_of_legalCaps 0x03#8 0x02#8 hcaps)

/-- A read in range that a reply can carry transmits the cells it names in ascending order (R152). -/
theorem exec_rhr_of_le_maxQty {start qty : Word} {s : State} (hcaps : capsLegal s.caps = true)
    (hrange : start.toNat + qty.toNat ≤ s.cfg.count) (hqty : qty.toNat ≤ maxQty s.caps) :
    exec (.rhr start qty) s =
      .next (s.transmit (withCrc (readReply s.cfg.slaveAddr qty
        ((List.range qty.toNat).map fun k => Memory.read s.hr (start.toNat + k))))) := by
  have hsend : execRhr start qty s =
      send (readReply s.cfg.slaveAddr qty
        ((List.range qty.toNat).map fun k => Memory.read s.hr (start.toNat + k))) s := by
    simp [execRhr, State.readInRange, State.readFits, hrange, hqty, memRead_eq]
  have hfits := (maxQty_bound hcaps).2
  refine hsend.trans (send_eq ?_)
  simp only [readReply, List.length_cons, serialise_length, List.length_map, List.length_range]
  omega

/-! ### The closed list -/

@[simp] theorem State.transmit_nil (s : State) : s.transmit [] = s := by
  simp [State.transmit]

/-- The handling of a frame has the outcome that the closed list gives it (R224, R226), branch by branch. -/
theorem handleFrame_eq_frameOutcome {s : State} (hinv : s.Inv) :
    handleFrame s = .next { s with tx := s.tx ++ s.frameOutcome.result.sent, hr := s.frameTable } := by
  have hdropped (hbad : s.len < 4 ∨ s.bufAt 0 ≠ s.cfg.slaveAddr ∨
      crc16 (s.buf.take (s.len - 2)) ≠ receivedCrc s.buf s.len) : handleFrame s = .next (s.transmit []) := by
    rw [State.transmit_nil, handleFrame_of_invalid hinv hbad]
  have hcaps := hinv.legalCaps
  unfold State.frameTable State.frameOutcome
  split_ifs with hlen haddr hcrc hread hrange hqty hwrite hreg
  · exact hdropped (.inl hlen)
  · exact hdropped (.inr (.inl haddr))
  · exact hdropped (.inr (.inr hcrc))
  all_goals
    obtain ⟨hroutesRead, hroutesWrite, hillegal⟩ :=
      validFrameIsRoutedByItsFunctionCode s hinv (not_lt.mp hlen) (not_not.mp haddr) (not_not.mp hcrc)
  · exact (hroutesRead hread).trans (readOutOfRangeRaisesIllegalDataAddress _ _ s hcaps hrange)
  · exact (hroutesRead hread).trans (exec_rhr_of_maxQty_lt hcaps (not_lt.mp hrange) hqty)
  · rw [hroutesRead hread, exec_rhr_of_le_maxQty hcaps (not_lt.mp hrange) (not_lt.mp hqty), readReply, serialise,
      List.flatMap_map]
    rfl
  · exact (hroutesWrite hwrite).trans ((writeStoresOneCellAndEchoesOrIsRejected _ _ s hinv).2 hreg)
  · exact (hroutesWrite hwrite).trans (exec_wsr_of_lt_count _ hinv (not_le.mp hreg))
  · exact hillegal hread hwrite

/-- Settles O30: the step handles the frame at the silence test, where the invariant holds and TX is still the one before the step,
and then clears LEN. -/
theorem completedFrameHasTheListedOutcome : Obligations.CompletedFrameHasTheListedOutcome := by
  intro s t rest hinv hpolls hsilent
  rw [step_of_silent hpolls hsilent, handleFrame_eq_frameOutcome (hinv.atTest hpolls), State.atTest_tx]
  rfl

end Sys2Proof.Machine
end
section
/-! The POLL step needs a configuration supplied since reset (R261, R262, D16): what a reset, an accepted configuration and a POLL
step on an empty buffer answer, and from them the sequence that leads from a reset to a POLL step. -/

namespace Sys2Proof.Machine

open Sys2Proof

/-! ### Reset and configuration -/

/-- A legal configuration before the first POLL step is accepted (R261). -/
theorem configure_eq_configured {cfg : Cfg} {s : State} (hphase : s.phase ≠ .polled) (hcaps : capsLegal s.caps = true)
    (hcfg : cfgLegal cfg = true) : configure cfg s = .next (s.configured cfg) := by
  simp [configure, (cfgOpen_iff s).mpr hphase, hcaps, hcfg]

theorem step_of_reset {s : State} {rest : List HostEvent} (hhost : s.host = .reset :: rest) :
    step s = .next (s.withHost rest).afterReset := step_of_event hhost

theorem step_of_configure {s : State} {cfg : Cfg} {rest : List HostEvent} (hhost : s.host = .configure cfg :: rest)
    (hphase : s.phase ≠ .polled) (hcaps : capsLegal s.caps = true) (hcfg : cfgLegal cfg = true) :
    step s = .next ((s.withHost rest).configured cfg) :=
  (step_of_event hhost).trans (configure_eq_configured hphase hcaps hcfg)

theorem step_of_unconfigured_poll {s : State} {t : Nat} {rest : List HostEvent} (hhost : s.host = .poll t :: rest)
    (hphase : s.phase = .unconfigured) : step s = .refused .missingConfiguration :=
  (step_of_event hhost).trans (poll_of_missingConfiguration t hphase)

/-! ### A POLL step on an empty buffer -/

/-- A buffer that starts empty is still empty after a burst, or its last byte carries the burst's time (R111). -/
theorem collectBytes_empty_or_stamped {s : State} {t : Nat} (rx : List Byte) (h : s.len = 0 ∨ s.tLast = t) :
    (s.collectBytes t rx).len = 0 ∨ (s.collectBytes t rx).tLast = t := by
  induction rx generalizing s with
  | nil => exact h
  | cons b rx ih =>
    obtain ⟨_, happended⟩ | ⟨_, hdiscarded⟩ := collectByte_cases t s b
    · rw [collectBytes_cons, happended]
      exact ih (.inr rfl)
    · rw [collectBytes_cons, hdiscarded]
      exact ih h

/-- A frame cannot be completed by the POLL step that collects its first byte: no time has passed since its last one (R113). -/
theorem afterCollect_not_silent {s : State} (t : Nat) (hempty : s.len = 0) : (s.afterCollect t).silent t = false := by
  have hcollected : (s.afterCollect t).len = 0 ∨ (s.afterCollect t).tLast = t :=
    collectBytes_empty_or_stamped s.rxq (.inl hempty)
  rw [Bool.eq_false_iff, ne_eq, silent_iff]
  omega

/-- A POLL step that happens on an empty buffer collects the waiting bytes and does nothing else. -/
theorem step_of_polls_empty {s : State} {t : Nat} {rest : List HostEvent} (hpolls : s.polls t rest) (hempty : s.len = 0) :
    step s = .next (s.atTest t rest) :=
  (step_of_polls hpolls).trans (delimit_of_not_silent (afterCollect_not_silent t hempty))

@[simp] theorem State.atTest_caps (s : State) (t : Nat) (rest : List HostEvent) : (s.atTest t rest).caps = s.caps := by
  rw [State.atTest, afterCollect_frame]
  rfl

@[simp] theorem State.atTest_phase (s : State) (t : Nat) (rest : List HostEvent) : (s.atTest t rest).phase = .polled := by
  rw [State.atTest, afterCollect_frame]

@[simp] theorem State.atTest_host (s : State) (t : Nat) (rest : List HostEvent) : (s.atTest t rest).host = rest := by
  rw [State.atTest, afterCollect_frame]
  rfl

/-! ### From reset to the first POLL step -/

/-- Settles O40.  In the last clause the POLL step meets its guards, since the configuration made the parameters legal and the reset
set the clock to 0, and answers with no frame completed, since the reset emptied the buffer. -/
theorem pollNeedsConfigurationSinceReset : Obligations.PollNeedsConfigurationSinceReset := by
  intro s t rest
  refine ⟨step_of_unconfigured_poll, fun hhost => ⟨_, step_of_reset hhost, step_of_unconfigured_poll rfl rfl⟩, ?_⟩
  intro cfg hhost hcaps hcfg
  refine ⟨_, _, _, step_of_reset hhost, step_of_configure rfl (by simp) hcaps hcfg,
    step_of_polls_empty ⟨rfl, rfl, (parametersLegal_iff _).mpr ⟨hcaps, hcfg⟩, Nat.zero_le t⟩ rfl, ?_⟩
  simp

end Sys2Proof.Machine
end

section
/-! The invariant is kept by every request, by the POLL step and by each event of the environment (R46), and no state that meets it
faults: a dutiful event completes, any other is refused (R10, R224, R263). -/

namespace Sys2Proof.Machine

open Sys2Proof

/-! ### The invariant, operation by operation -/

theorem State.Inv.transmit {s : State} (h : s.Inv) (bytes : List Byte) : (s.transmit bytes).Inv :=
  ⟨h.parameters, h.bufCells, h.lenBound, h.lastByteTime, h.idleBeforeFirstPoll, h.table⟩

/-- Writing a cell the table has keeps its canonical form. -/
theorem State.Inv.writeCell {s : State} (h : s.Inv) {a : Nat} (v : Word) (ha : a < s.cfg.count) : (s.writeCell a v).Inv :=
  ⟨h.parameters, h.bufCells, h.lenBound, h.lastByteTime, h.idleBeforeFirstPoll, Memory.wf_write h.table v ha⟩

/-- The clear leaves no frame under assembly, so that nothing is asked of T_LAST (R114). -/
theorem State.Inv.clearFrame {s : State} (h : s.Inv) : s.clearFrame.Inv :=
  ⟨h.parameters, h.bufCells, Nat.zero_le _, fun hlen => absurd hlen (Nat.lt_irrefl 0), fun _ => rfl, h.table⟩

theorem State.Inv.enqueue {s : State} (h : s.Inv) (bytes : List Byte) : (s.enqueue bytes).Inv :=
  ⟨h.parameters, h.bufCells, h.lenBound, h.lastByteTime, h.idleBeforeFirstPoll, h.table⟩

/-- After a reset event nothing is under assembly, and BUF has its FRAME_CAP cells whatever they hold (R45). -/
theorem State.Inv.afterReset {s : State} (h : s.Inv) : s.afterReset.Inv :=
  ⟨h.parameters, by simp, Nat.zero_le _, fun hlen => absurd hlen (Nat.lt_irrefl 0), fun _ => rfl, h.table⟩

/-- A legal configuration taken before the first POLL step finds no frame under assembly, and the table is bound to its COUNT. -/
theorem State.Inv.configured {s : State} (h : s.Inv) {cfg : Cfg} (hphase : s.phase ≠ .polled) (hcfg : cfgLegal cfg = true) :
    (s.configured cfg).Inv where
  parameters := (parametersLegal_iff _).mpr ⟨h.legalCaps, hcfg⟩
  bufCells := h.bufCells
  lenBound := h.lenBound
  lastByteTime := h.lastByteTime
  idleBeforeFirstPoll := fun _ => h.idleBeforeFirstPoll hphase
  table := Memory.wf_restrict cfg.count h.table

theorem State.Inv.exec {i : Instr} {s t : State} (h : s.Inv) (hexec : exec i s = .next t) : t.Inv := by
  obtain ⟨bytes, rfl⟩ | ⟨_, val, _, hreg, bytes, rfl⟩ := exec_next hexec
  · exact h.transmit bytes
  · exact (h.writeCell val hreg).transmit bytes

theorem State.Inv.handleFrame {s t : State} (h : s.Inv) (hhandle : handleFrame s = .next t) : t.Inv := by
  obtain rfl | ⟨_, _, hexec⟩ := handleFrame_next hhandle
  · exact h
  · exact h.exec hexec

theorem State.Inv.poll {s u : State} {t : Nat} (h : s.Inv) (hpoll : poll t s = .next u) : u.Inv := by
  obtain ⟨_, _, hclock, hdelimit⟩ := poll_next hpoll
  have hcollected := h.afterCollect hclock
  obtain ⟨_, rfl⟩ | ⟨_, v, hhandle, rfl⟩ := delimit_next hdelimit
  · exact hcollected
  · exact (hcollected.handleFrame hhandle).clearFrame

theorem State.Inv.runEvent {e : HostEvent} {s t : State} (h : s.Inv) (hrun : runEvent e s = .next t) : t.Inv := by
  cases e with
  | rx bytes =>
    cases hrun
    exact h.enqueue bytes
  | poll now => exact h.poll hrun
  | hostWrite i v =>
    obtain ⟨hin, rfl⟩ := hostWrite_next hrun
    exact h.writeCell v hin
  | reset =>
    cases hrun
    exact h.afterReset
  | configure cfg =>
    obtain ⟨hopen, _, hlegal, rfl⟩ := configure_next hrun
    exact h.configured hopen hlegal

/-- Settles O38: with no event nothing changes, and each event keeps the invariant. -/
theorem stepKeepsTheInvariant : Obligations.StepKeepsTheInvariant := by
  intro s t hinv hstep
  obtain ⟨_, rfl⟩ | ⟨e, rest, _, hrun⟩ := step_next hstep
  · exact hinv
  · exact (hinv.withHost rest).runEvent hrun

/-! ### Completion and refusal -/

/-- The handling of a frame completes from every state that meets the invariant: it has one of the outcomes of the closed list. -/
theorem State.Inv.delimit_completes {s : State} (h : s.Inv) (t : Nat) : ∃ u, delimit t s = .next u := by
  cases hsilent : s.silent t with
  | false => exact ⟨s, delimit_of_not_silent hsilent⟩
  | true => exact ⟨_, by rw [delimit_of_silent hsilent, handleFrame_eq_frameOutcome h, endOfFrame_next_eq]⟩

/-- A POLL step on a supplied configuration whose clock does not run backwards completes. -/
theorem State.Inv.poll_completes {s : State} {t : Nat} (h : s.Inv) (hsupplied : s.cfgSupplied = true) (hclock : s.now ≤ t) :
    ∃ u, Machine.poll t s = .next u := by
  rw [poll_eq_delimit hsupplied h.parameters hclock]
  exact (h.afterCollect hclock).delimit_completes t

/-- A dutiful event completes. -/
theorem State.Inv.runEvent_completes {e : HostEvent} {s : State} (h : s.Inv) (hdutiful : e.dutiful s = true) :
    ∃ t, Machine.runEvent e s = .next t := by
  cases e with
  | rx bytes => exact ⟨_, rfl⟩
  | poll now =>
    obtain ⟨hsupplied, hclock⟩ : s.cfgSupplied = true ∧ s.now ≤ now := by simpa [HostEvent.dutiful] using hdutiful
    exact h.poll_completes hsupplied hclock
  | hostWrite i v => exact ⟨_, if_pos (of_decide_eq_true hdutiful)⟩
  | reset => exact ⟨_, rfl⟩
  | configure cfg =>
    obtain ⟨hopen, hcaps, hcfg⟩ : s.cfgOpen = true ∧ capsLegal s.caps = true ∧ cfgLegal cfg = true := by
      simpa [HostEvent.dutiful] using hdutiful
    exact ⟨_, configure_eq_configured ((cfgOpen_iff s).mp hopen) hcaps hcfg⟩

/-- An event that breaks a duty is refused, whatever the state (R263). -/
theorem runEvent_refused {e : HostEvent} {s : State} (hbreach : e.dutiful s = false) : ∃ r, runEvent e s = .refused r := by
  cases e with
  | rx bytes => cases hbreach
  | poll now =>
    change ∃ r, poll now s = .refused r
    unfold poll
    split_ifs with hsupplied hlegal hclock
    · exact ⟨_, rfl⟩
    · exact ⟨_, rfl⟩
    · exact ⟨_, rfl⟩
    · have hdutiful : s.cfgSupplied = true → now < s.now := by simpa [HostEvent.dutiful] using hbreach
      exact absurd (hdutiful (by simpa using hsupplied)) hclock
  | hostWrite i v => exact ⟨_, if_neg (of_decide_eq_false hbreach)⟩
  | reset => cases hbreach
  | configure cfg =>
    rw [runEvent_configure]
    split_ifs with hopen hlegal
    · exact ⟨_, rfl⟩
    · exact ⟨_, rfl⟩
    · have hdutiful : (s.cfgOpen && (capsLegal s.caps && cfgLegal cfg)) = true := by
        rw [Bool.not_eq_true, Bool.not_eq_false'] at hopen hlegal
        rw [hopen, hlegal, Bool.and_self]
      exact absurd (hdutiful.symm.trans hbreach) (by decide)

/-- The events still to come play no part in the duties of the next one. -/
@[simp] theorem dutiful_withHost (e : HostEvent) (s : State) (rest : List HostEvent) :
    e.dutiful (s.withHost rest) = e.dutiful s := by
  cases e <;> rfl

/-- Settles O39: the step runs its event, if there is one, which completes when it is dutiful and is refused when it is not. -/
theorem dutifulStepsCompleteAndNothingFaults : Obligations.DutifulStepsCompleteAndNothingFaults := by
  intro s hinv
  cases hhost : s.host with
  | nil => simp [State.hostDutiful, hhost, step_of_noEvent hhost]
  | cons e rest =>
    have hdutiful : s.hostDutiful = e.dutiful (s.withHost rest) := by
      rw [State.hostDutiful, hhost, dutiful_withHost]
    rw [hdutiful, step_of_event hhost]
    exact ⟨(hinv.withHost rest).runEvent_completes, runEvent_refused⟩

/-- Settles O37: the parameters of State.reset are legal, BUF has its 16 cells, and nothing is under assembly. -/
theorem resetIsIdleAndMeetsTheInvariant : Obligations.ResetIsIdleAndMeetsTheInvariant := by
  refine ⟨rfl, rfl, rfl, ?_⟩
  exact
    { parameters := by decide
      bufCells := rfl
      lenBound := Nat.zero_le _
      lastByteTime := fun _ => le_rfl
      idleBeforeFirstPoll := fun _ => rfl
      table := rfl }

end Sys2Proof.Machine
end

section
/-! The checksum as a map: zero residue, injectivity in the accumulator and in every byte, and linearity over exclusive-or
(R199); what a checksum that matches says of a frame's bytes (R133). -/

namespace Sys2Proof.Machine

open Sys2Proof

/-! ### Injectivity -/

/-- CRC_BIT loses nothing: the bit shifted out reappears at bit 15, which the shift leaves empty. -/
theorem crcBit_injective : Function.Injective crcBit := by
  intro a b h
  have hbits (i : Nat) : (crcBit a).getLsbD i = (crcBit b).getLsbD i := by rw [h]
  have hlow : a.getLsbD 0 = b.getLsbD 0 := by
    have htop := hbits 15
    rw [crcBitIsAShiftRegisterWithThreeTaps a 15 (by decide), crcBitIsAShiftRegisterWithThreeTaps b 15 (by decide)] at htop
    simpa using htop
  apply BitVec.eq_of_getLsbD_eq
  intro i hi
  cases i with
  | zero => exact hlow
  | succ i =>
    have hshifted := hbits i
    rw [crcBitIsAShiftRegisterWithThreeTaps a i (by omega), crcBitIsAShiftRegisterWithThreeTaps b i (by omega),
      if_neg (by omega), if_neg (by omega), hlow] at hshifted
    exact Bool.xor_left_inj.mp hshifted

theorem crcBits_injective (k : Nat) : Function.Injective (crcBits k) := by
  induction k with
  | zero => exact Function.injective_id
  | succ k ih => exact ih.comp crcBit_injective

theorem crcByte_left_injective (b : Byte) : Function.Injective fun acc => crcByte acc b := fun _ _ h =>
  (BitVec.xor_left_inj _).mp (crcBits_injective 8 h)

theorem crcByte_right_injective (acc : Word) : Function.Injective (crcByte acc) := by
  intro b c h
  have hwide : b.setWidth 16 = c.setWidth 16 := (BitVec.xor_right_inj _).mp (crcBits_injective 8 h)
  simpa using congrArg (BitVec.setWidth 8) hwide

theorem crcFrom_injective (bytes : List Byte) : Function.Injective fun acc => crcFrom acc bytes := by
  induction bytes with
  | nil => exact Function.injective_id
  | cons b bytes ih => exact ih.comp (crcByte_left_injective b)

/-- No single byte can be changed with the checksum kept. -/
theorem eq_of_crcFrom_set {acc : Word} {bytes : List Byte} {k : Nat} {b : Byte} (hk : k < bytes.length)
    (h : crcFrom acc (bytes.set k b) = crcFrom acc bytes) : bytes.getD k 0 = b := by
  induction bytes generalizing acc k with
  | nil => exact absurd hk (Nat.not_lt_zero k)
  | cons c bytes ih =>
    cases k with
    | zero => exact (crcByte_right_injective acc (crcFrom_injective bytes h)).symm
    | succ k => exact ih (Nat.lt_of_succ_lt_succ hk) h

/-! ### Residue -/

/-- With k zero bits below, k bit steps only shift. -/
theorem crcBits_of_low_bits_zero (k : Nat) {acc : Word} (h : ∀ i < k, acc.getLsbD i = false) : crcBits k acc = acc >>> k := by
  induction k generalizing acc with
  | zero => rfl
  | succ k ih =>
    have hbit : crcBit acc = acc >>> 1 := if_neg (by rw [h 0 (Nat.succ_pos k)]; decide)
    rw [crcBits, hbit, ih, ← BitVec.shiftRight_add, Nat.add_comm]
    intro i hi
    rw [BitVec.getLsbD_ushiftRight, Nat.add_comm]
    exact h (i + 1) (Nat.succ_lt_succ hi)

/-- The low byte of a checksum cancels against itself and leaves the high byte. -/
theorem crcByte_loByte (c : Word) : crcByte c (loByte c) = (hiByte c).setWidth 16 := by
  rw [crcByte, crcBits_of_low_bits_zero 8]
  · apply BitVec.eq_of_getLsbD_eq
    intro i hi
    have hbound : c.getLsbD (8 + i) = true → i < 8 := fun hset => by
      have := BitVec.lt_of_getLsbD hset
      omega
    simpa [loByte, hiByte, hi] using hbound
  · intro i hi
    simpa [loByte, hi] using fun _ => Nat.lt_of_lt_of_le hi (by decide)

theorem crcByte_self (b : Byte) : crcByte (b.setWidth 16) b = 0x0000#16 := by
  rw [crcByte, BitVec.xor_self]
  decide

/-- Its own checksum, appended low byte first, brings a checksum to zero (R199). -/
theorem crcFrom_leBytes (c : Word) : crcFrom c (leBytes c) = 0x0000#16 := by
  rw [leBytes, crcFrom_cons, crcByte_loByte, crcFrom_cons, crcByte_self, crcFrom_nil]

theorem crc16_withCrc (bytes : List Byte) : crc16 (withCrc bytes) = 0x0000#16 := by
  rw [withCrc, crc16_append, crcFrom_leBytes]

/-! ### Linearity -/

theorem crcByte_xor (acc acc' : Word) (b b' : Byte) :
    crcByte (acc ^^^ acc') (b ^^^ b') = crcByte acc b ^^^ crcByte acc' b' := by
  rw [crcByte, crcByte, crcByte, ← crcBits_xor, BitVec.setWidth_xor]
  congr 1
  ac_rfl

/-- Over sequences of one length the checksum is linear in accumulator and bytes together. -/
theorem crcFrom_zipWith_xor (acc acc' : Word) {a b : List Byte} (h : a.length = b.length) :
    crcFrom (acc ^^^ acc') (List.zipWith (· ^^^ ·) a b) = crcFrom acc a ^^^ crcFrom acc' b := by
  induction a generalizing acc acc' b with
  | nil =>
    obtain rfl := List.length_eq_zero_iff.mp h.symm
    rfl
  | cons x a ih =>
    cases b with
    | nil => cases h
    | cons y b =>
      rw [List.zipWith_cons_cons, crcFrom_cons, crcByte_xor]
      exact ih _ _ (Nat.succ.inj h)

/-- Settles O3.  The map is affine because three equal initial accumulators exclusive-or to the one initial accumulator. -/
theorem crcResidueZeroBijectiveAndAffine : Obligations.CrcResidueZeroBijectiveAndAffine := by
  refine ⟨crc16_withCrc, by decide, fun b => (crcByte_left_injective b).bijective_of_finite, fun a b c hab hbc => ?_⟩
  have hlength : (List.zipWith (· ^^^ ·) a b).length = c.length := by simp [hab, hbc]
  calc crc16 a ^^^ crc16 b ^^^ crc16 c
      = crcFrom (0xFFFF#16 ^^^ 0xFFFF#16) (List.zipWith (· ^^^ ·) a b) ^^^ crc16 c := by
        rw [crcFrom_zipWith_xor _ _ hab]
        rfl
    _ = crcFrom (0xFFFF#16 ^^^ 0xFFFF#16 ^^^ 0xFFFF#16) (List.zipWith (· ^^^ ·) (List.zipWith (· ^^^ ·) a b) c) :=
        (crcFrom_zipWith_xor _ _ hlength).symm
    _ = crc16 (List.zipWith (· ^^^ ·) (List.zipWith (· ^^^ ·) a b) c) := rfl

/-- Settles O1, string by string. -/
theorem crcOfKnownStrings : Obligations.CrcOfKnownStrings := by
  refine ⟨?_, ?_, ?_, ?_, ?_, ?_⟩ <;> decide +kernel

end Sys2Proof.Machine
end

section
/-! Frames and the decoder: a frame that decodes is its body with that body's checksum (R81, R133), a request frame is its
dispatcher's whatever stands behind it in the buffer, and each encoded request decodes to itself (R89, R93). -/

namespace Sys2Proof.Machine

open Sys2Proof

/-! ### What a matching checksum says of the bytes -/

/-- The last two bytes of a frame are the CRC it carries, low byte first (R87). -/
theorem take_eq_append_receivedCrc {buf : List Byte} {n : Nat} (hn : 2 ≤ n) (hcells : n ≤ buf.length) :
    buf.take n = buf.take (n - 2) ++ leBytes (receivedCrc buf n) := by
  obtain ⟨m, rfl⟩ := Nat.exists_eq_add_of_le' hn
  have hlow : m < buf.length := by omega
  have hhigh : m + 1 < buf.length := by omega
  rw [receivedCrc, leBytes, loByte_le16, hiByte_le16, Nat.add_sub_cancel, show m + 2 - 1 = m + 1 from rfl,
    List.getD_eq_getElem _ _ hlow, List.getD_eq_getElem _ _ hhigh, List.take_add_one, List.take_add_one,
    List.getElem?_eq_getElem hlow, List.getElem?_eq_getElem hhigh, List.append_assoc]
  rfl

/-- A frame that decodes is its body with the body's own checksum appended (R133). -/
theorem take_eq_withCrc_of_decode {addr : Byte} {buf : List Byte} {n : Nat} {i : Instr} (h : decode addr buf n = .ok i) :
    buf.take n = withCrc (buf.take (n - 2)) := by
  obtain ⟨hlen, hcells, _, hcrc, _⟩ := decode_ok_iff.mp h
  rw [take_eq_append_receivedCrc (Nat.le_trans (by decide) hlen) hcells, ← hcrc, withCrc]

/-- Settles O9: a frame that decodes has checksum zero, as the unchanged frame has, and no single byte can be changed with the
checksum kept. -/
theorem oneCorruptedByteIsNeverAccepted : Obligations.OneCorruptedByteIsNeverAccepted := by
  intro addr f payload stale k b hk hchanged i hdecode
  have hframe := take_eq_withCrc_of_decode hdecode
  rw [List.take_append_of_le_length (by rw [List.length_set]), List.take_of_length_le (by rw [List.length_set])] at hframe
  have hkept : crc16 ((request addr f payload).set k b) = crc16 (request addr f payload) := by
    rw [hframe, crc16_withCrc, request, crc16_withCrc]
  exact hchanged (eq_of_crcFrom_set hk hkept)

/-! ### Request frames -/

theorem request_length (addr f : Byte) (payload : List Byte) : (request addr f payload).length = payload.length + 4 := by
  simp [request]

/-- A request frame to this slave passes the three tests, so that the dispatcher decides, on the whole buffer (R93, R135). -/
theorem decode_request (addr f : Byte) (payload stale : List Byte) :
    decode addr (request addr f payload ++ stale) (request addr f payload).length =
      decodeFunction f (request addr f payload ++ stale) := by
  set body := addr :: f :: payload with hbody
  have hframe : request addr f payload = body ++ leBytes (crc16 body) := rfl
  have hlen : (request addr f payload).length = body.length + 2 := by simp [hframe]
  have hbodyLen : 2 ≤ body.length := by simp [hbody]
  have hcrc : crc16 ((request addr f payload ++ stale).take body.length) =
      receivedCrc (request addr f payload ++ stale) (body.length + 2) := by
    rw [hframe, List.append_assoc, List.take_left]
    simp [receivedCrc, leBytes]
  rw [hlen, decode, if_neg (by omega), if_neg (by simp [hframe]; omega), if_neg, if_neg]
  · rfl
  · simpa using hcrc
  · simp [hframe, hbody]

/-! ### Encoded requests -/

/-- Every constructor meets the family's statement: its function code and payload select it (R89, R90). -/
theorem functionCode_selects (i : Instr) : Laws.FunctionCode.Statement i := by
  cases i with
  | rhr start qty => exact Laws.FunctionCode.rhr start qty
  | wsr reg val => exact Laws.FunctionCode.wsr reg val
  | illf80 f => exact Laws.FunctionCode.illf80 f
  | illf40 f => exact Laws.FunctionCode.illf40 f
  | illf20 f => exact Laws.FunctionCode.illf20 f
  | illf10 f => exact Laws.FunctionCode.illf10 f
  | illf08 f => exact Laws.FunctionCode.illf08 f
  | illf00 f => exact Laws.FunctionCode.illf00 f
  | illf02 f => exact Laws.FunctionCode.illf02 f
  | illf04 f => exact Laws.FunctionCode.illf04 f
  | illf07 f => exact Laws.FunctionCode.illf07 f

/-- A request frame with any bytes behind the request's own payload decodes to the request (R83). -/
theorem decode_request_append {i : Instr} (hwf : i.wellFormed = true) (addr : Byte) (extra stale : List Byte) :
    decode addr (request addr i.func (i.payload ++ extra) ++ stale) (request addr i.func (i.payload ++ extra)).length = .ok i := by
  rw [decode_request]
  have hselects := functionCode_selects i hwf addr
    (extra ++ (leBytes (crc16 (addr :: i.func :: (i.payload ++ extra))) ++ stale))
  simpa [request, withCrc] using hselects

/-- Settles O6: the shortest frame of a request is the one with no extra payload. -/
theorem encodedRequestsDecodeToThemselves : Obligations.EncodedRequestsDecodeToThemselves := by
  intro i addr extra stale hwf
  have hshortest := decode_request_append hwf addr [] stale
  rw [List.append_nil] at hshortest
  exact ⟨hshortest, decode_request_append hwf addr extra stale⟩

/-! ### Fixed frames and the opcode table -/

/-- Settles O4, frame by frame. -/
theorem writtenOutFramesDecode : Obligations.WrittenOutFramesDecode := by
  refine ⟨?_, ?_, ?_, ?_, ?_, ?_, ?_, ?_, ?_⟩ <;> decide +kernel

/-- Settles O5: the patterns are compared with each of the 256 codes, and the row a code is sent to is well formed and carries it. -/
theorem opcodeRowsAreDisjointAndCoverAllCodes : Obligations.OpcodeRowsAreDisjointAndCoverAllCodes := by
  intro f
  refine ⟨?_, fun h3 h6 => ⟨wellFormed_illegalFunctionRow f h3 h6, func_illegalFunctionRow f⟩⟩
  revert f
  decide +kernel

end Sys2Proof.Machine
end

section
/-! The requests: what each transmits, what it leaves alone, and on which cells of the table its answer depends (R31, R59, R152,
R169, R209). -/

namespace Sys2Proof.Machine

open Sys2Proof

/-! ### What a request transmits -/

/-- A read that answers has sent one response of at least 3 bytes before its CRC, and done nothing else. -/
theorem execRhr_sends {start qty : Word} {s t : State} (h : execRhr start qty s = .next t) :
    ∃ rsp, 3 ≤ rsp.length ∧ send rsp s = .next t := by
  unfold execRhr at h
  split_ifs at h
  · exact ⟨_, by simp, h⟩
  · exact ⟨_, by simp, h⟩
  · split at h
    · exact ⟨_, by simp [readReply], h⟩
    · cases h

/-- A write that answers has sent an exception reply, or, COUNT covering its cell, has written the cell and sent the echo. -/
theorem execWsr_sends {reg val : Word} {s t : State} (h : execWsr reg val s = .next t) :
    (∃ rsp, 3 ≤ rsp.length ∧ send rsp s = .next t) ∨
      (reg.toNat < s.cfg.count ∧ send (s.buf.take (s.len - 2)) (s.writeCell reg.toNat val) = .next t) := by
  unfold execWsr at h
  split_ifs at h
  · exact .inl ⟨_, by simp, h⟩
  · split at h
    · next hwrite =>
      obtain ⟨hin, rfl⟩ := memWrite_some hwrite
      split at h
      · next hecho =>
        obtain ⟨_, rfl⟩ := frameBytes_some hecho
        exact .inr ⟨hin, h⟩
      · cases h
    · cases h

/-- The two things a request that answers can do: send a response of 5 to RESP_CAP bytes, or, a WSR in range, write its cell and
send the echo. -/
theorem exec_sends {i : Instr} {s t : State} (h : exec i s = .next t) :
    (∃ rsp, 3 ≤ rsp.length ∧ send rsp s = .next t) ∨
      ∃ reg val, i = .wsr reg val ∧ reg.toNat < s.cfg.count ∧
        send (s.buf.take (s.len - 2)) (s.writeCell reg.toNat val) = .next t := by
  cases i with
  | rhr start qty => exact .inl (execRhr_sends h)
  | wsr reg val => exact (execWsr_sends h).imp_right fun hwrite => ⟨reg, val, rfl, hwrite⟩
  | illf80 f | illf40 f | illf20 f | illf10 f | illf08 f | illf00 f | illf02 f | illf04 f | illf07 f =>
    exact .inl ⟨_, by simp, h⟩

/-- A request appends one reply to TX: a response with its CRC, within RESP_CAP. -/
theorem exec_tx {i : Instr} {s t : State} (h : exec i s = .next t) :
    ∃ rsp, t.tx = s.tx ++ withCrc rsp ∧ rsp.length + 2 ≤ s.caps.respCap := by
  obtain ⟨rsp, _, hsend⟩ | ⟨_, _, _, _, hsend⟩ := exec_sends h
  · obtain ⟨hfits, rfl⟩ := send_next hsend
    exact ⟨rsp, rfl, hfits⟩
  · obtain ⟨hfits, rfl⟩ := send_next hsend
    exact ⟨_, rfl, hfits⟩

/-- A request leaves every cell alone but the one a WSR names (R209). -/
theorem exec_read_other {i : Instr} {s t : State} (htable : Memory.wf s.cfg.count s.hr = true) (h : exec i s = .next t) {a : Nat}
    (ha : ∀ reg val, i = .wsr reg val → a ≠ reg.toNat) : Memory.read t.hr a = Memory.read s.hr a := by
  obtain ⟨_, rfl⟩ | ⟨reg, val, hi, _, _, rfl⟩ := exec_next h
  · rfl
  · exact (Memory.read_write htable reg.toNat val a).trans (if_neg (ha reg val hi))

/-- Settles O18: a request changes HR and TX only; the reply is a response with its CRC, and the cells are the frame of a write. -/
theorem requestsTouchOnlyOneCellAndTx : Obligations.RequestsTouchOnlyOneCellAndTx := by
  intro i s t htable hexec
  have hreply : ∃ reply,
      t.tx = s.tx ++ reply ∧ crc16 reply = 0x0000#16 ∧ 2 ≤ reply.length ∧ reply.length ≤ s.caps.respCap := by
    obtain ⟨rsp, htx, hfits⟩ := exec_tx hexec
    exact ⟨withCrc rsp, htx, crc16_withCrc rsp, by simp, by simpa using hfits⟩
  have hcells := fun a ha => exec_read_other (a := a) htable hexec ha
  rw [exec_frame hexec]
  exact ⟨rfl, rfl, rfl, rfl, rfl, rfl, rfl, rfl, rfl, rfl, hreply, hcells⟩

/-! ### Reads -/

/-- The bytes of a read's cells, each high byte first, as R152 lists them. -/
theorem serialise_map (f : Nat → Word) (ks : List Nat) :
    serialise (ks.map f) = ks.flatMap fun k => [hiByte (f k), loByte (f k)] :=
  List.flatMap_map ..

/-- Settles O10: the response is SLAVE_ADDR, 0x03, the byte count and the cells, and with its CRC it fits since q <= MAX_QTY. -/
theorem readRepliesWithCellsInAddressOrder : Obligations.ReadRepliesWithCellsInAddressOrder := by
  intro start qty s hcaps hrange hqty
  have hbound := maxQty_bound hcaps
  have hlength (vals : List Word) (hvals : vals.length = qty.toNat) :
      (withCrc (readReply s.cfg.slaveAddr qty vals)).length = 5 + 2 * qty.toNat := by
    simp [readReply, hvals]
    omega
  refine ⟨_, exec_rhr_of_le_maxQty hcaps hrange hqty, ?_, ?_⟩
  · rw [readReply, serialise_map]
    rfl
  · rw [hlength _ (by simp)]
    omega

/-- Settles O12: the capacity check fails and the exception reply fits the response buffer. -/
theorem readAboveResponseCapacityRaisesIllegalDataAddress : Obligations.ReadAboveResponseCapacityRaisesIllegalDataAddress :=
  fun _ _ _ hcaps hrange hqty => exec_rhr_of_maxQty_lt hcaps hrange hqty

/-- What a read sends is fixed by the cells it names: one response serves every table that agrees with HR on them (R209). -/
theorem execRhr_eq_send (start qty : Word) (s : State) :
    ∃ rsp, ∀ hr : Memory,
      (∀ k, k < qty.toNat → Memory.read hr (start.toNat + k) = Memory.read s.hr (start.toNat + k)) →
        execRhr start qty { s with hr := hr } = send rsp { s with hr := hr } := by
  by_cases hrange : start.toNat + qty.toNat ≤ s.cfg.count
  · by_cases hqty : qty.toNat ≤ maxQty s.caps
    · refine ⟨readReply s.cfg.slaveAddr qty ((List.range qty.toNat).map fun k => Memory.read s.hr (start.toNat + k)),
        fun hr hagree => ?_⟩
      have hcells : ((List.range qty.toNat).map fun k => Memory.read hr (start.toNat + k)) =
          (List.range qty.toNat).map fun k => Memory.read s.hr (start.toNat + k) :=
        List.map_congr_left fun k hk => hagree k (List.mem_range.mp hk)
      simp [execRhr, State.readInRange, State.readFits, hrange, hqty, memRead_eq, hcells]
    · exact ⟨[s.cfg.slaveAddr, errorFunction 0x03#8, 0x02#8], fun hr _ => by
        simp [execRhr, State.readInRange, State.readFits, hrange, hqty, raiseIllegalDataAddress, raiseException]⟩
  · exact ⟨[s.cfg.slaveAddr, errorFunction 0x03#8, 0x02#8], fun hr _ => by
      simp [execRhr, State.readInRange, hrange, raiseIllegalDataAddress, raiseException]⟩

/-- Settles O19: both tables get the same response, and SEND does not look at the table. -/
theorem readDependsOnItsCellsOnly : Obligations.ReadDependsOnItsCellsOnly := by
  intro start qty s t hr hagree hexec
  obtain ⟨rsp, hresponse⟩ := execRhr_eq_send start qty s
  have hsend : send rsp s = .next t := (hresponse s.hr fun _ _ => rfl).symm.trans hexec
  obtain ⟨hfits, rfl⟩ := send_next hsend
  exact ⟨rfl, (hresponse hr hagree).trans (send_eq hfits)⟩

/-- A read of one register in range answers with that cell. -/
theorem exec_rhr_one {reg : Word} {s : State} (hcaps : capsLegal s.caps = true) (hreg : reg.toNat < s.cfg.count) :
    exec (.rhr reg 0x0001#16) s =
      .next (s.transmit (withCrc [s.cfg.slaveAddr, 0x03#8, 0x02#8, hiByte (Memory.read s.hr reg.toNat),
        loByte (Memory.read s.hr reg.toNat)])) := by
  have hqty : (0x0001#16 : Word).toNat ≤ maxQty s.caps := by
    have hbounds := (capsLegal_iff s.caps).mp hcaps
    rw [maxQty]
    change 1 ≤ _
    omega
  exact exec_rhr_of_le_maxQty (qty := 0x0001#16) hcaps hreg hqty

/-- Settles O20: the write put the value into the cell, the cell has not changed since, and the read answers with it. -/
theorem writtenValueIsReadBack : Obligations.WrittenValueIsReadBack := by
  intro reg val s t u hinv hwrite hreg hcaps hcfg hkept
  have hstored : Memory.read t.hr reg.toNat = val := by
    rw [exec_wsr_of_lt_count val hinv hreg] at hwrite
    cases hwrite
    exact (Memory.read_write hinv.table reg.toNat val reg.toNat).trans (if_pos rfl)
  rw [exec_rhr_one (hcaps ▸ hinv.legalCaps) (hcfg ▸ hreg), hkept, hstored]
  rfl

/-! ### Writes -/

/-- Settles O14: the frame that decoded is its body with the body's own checksum, which is what the write answers with. -/
theorem writeReplyEqualsRequestFrame : Obligations.WriteReplyEqualsRequestFrame := by
  intro reg val s hinv hdecode hreg
  refine ⟨_, exec_wsr_of_lt_count val hinv hreg, ?_⟩
  rw [take_eq_withCrc_of_decode hdecode]
  rfl

end Sys2Proof.Machine
end

section
/-! The collector in closed form, and that neither the pieces bytes arrive in nor their times shape the frame (R111, R112, R115). -/

namespace Sys2Proof.Machine

open Sys2Proof

/-! ### Any number of bytes -/

/-- A full buffer takes nothing (R112). -/
theorem collectBytes_of_full {s : State} (t : Nat) (rx : List Byte) (h : s.caps.frameCap ≤ s.len) : s.collectBytes t rx = s := by
  induction rx with
  | nil => rfl
  | cons b rx ih => rw [collectBytes_cons, collectByte_eq_of_full t b h, ih]

theorem collectBytes_len (t : Nat) {s : State} (rx : List Byte) (h : s.len ≤ s.caps.frameCap) :
    (s.collectBytes t rx).len = min (s.len + rx.length) s.caps.frameCap := by
  induction rx generalizing s with
  | nil => exact (Nat.min_eq_left h).symm
  | cons b rx ih =>
    obtain hroom | hfull := Nat.lt_or_ge s.len s.caps.frameCap
    · rw [collectBytes_cons, collectByte_eq_of_room t b hroom, ih (s := s.appendByte t b) hroom,
        State.appendByte_len, State.appendByte_caps, List.length_cons, Nat.add_assoc, Nat.add_comm 1]
    · rw [collectBytes_of_full t _ hfull]
      omega

/-- T_LAST is the time of the last byte that was appended, if there was one (R111, D10). -/
theorem collectBytes_tLast (t : Nat) (s : State) (rx : List Byte) :
    (s.collectBytes t rx).tLast = if rx ≠ [] ∧ s.len < s.caps.frameCap then t else s.tLast := by
  induction rx generalizing s with
  | nil => rfl
  | cons b rx ih =>
    obtain hroom | hfull := Nat.lt_or_ge s.len s.caps.frameCap
    · rw [collectBytes_cons, collectByte_eq_of_room t b hroom, ih, State.appendByte_tLast, ite_self,
        if_pos ⟨List.cons_ne_nil b rx, hroom⟩]
    · rw [collectBytes_of_full t _ hfull, if_neg fun h => absurd h.2 (Nat.not_lt.mpr hfull)]

/-- Bytes go behind those present while there is room, and the cells behind them keep theirs (R111, R112). -/
theorem collectBytes_buf (t : Nat) {s : State} (rx : List Byte) (h : s.buf.length = s.caps.frameCap) :
    (s.collectBytes t rx).buf =
      s.buf.take s.len ++ rx.take (s.caps.frameCap - s.len) ++
        s.buf.drop (s.len + (rx.take (s.caps.frameCap - s.len)).length) := by
  induction rx generalizing s with
  | nil => simp
  | cons b rx ih =>
    obtain hroom | hfull := Nat.lt_or_ge s.len s.caps.frameCap
    · have hcell : s.len < s.buf.length := hroom.trans_eq h.symm
      have hleft : s.caps.frameCap - s.len = s.caps.frameCap - (s.len + 1) + 1 := by omega
      have htaken : (s.buf.set s.len b).take (s.len + 1) = s.buf.take s.len ++ [b] := by
        simp [List.take_add_one, hcell, List.take_set_of_le]
      have hkept (m : Nat) : (s.buf.set s.len b).drop (s.len + 1 + m) = s.buf.drop (s.len + (m + 1)) := by
        rw [List.drop_set_of_lt (by omega), Nat.add_assoc, Nat.add_comm 1]
      rw [collectBytes_cons, collectByte_eq_of_room t b hroom, ih ((List.length_set ..).trans h), State.appendByte_buf,
        State.appendByte_len, State.appendByte_caps, htaken, hkept, hleft]
      simp
    · simp [collectBytes_of_full t _ hfull, Nat.sub_eq_zero_of_le hfull]

/-- Settles O23: what the collector writes, field by field, and nothing else. -/
theorem collectorAppendsInOrderUpToCapacity : Obligations.CollectorAppendsInOrderUpToCapacity := by
  intro s t hcells hlen
  rw [State.collect, collectBytes_frame, collectBytes_buf (s := s.emptyQueue) t s.rxq hcells,
    collectBytes_len (s := s.emptyQueue) t s.rxq hlen, collectBytes_tLast]
  rfl

/-! ### Bytes in pieces -/

/-- BUF and LEN after collecting depend on BUF, LEN and the capacity alone: neither on the time nor on T_LAST. -/
theorem collectBytes_buf_len_congr {s u : State} (t t' : Nat) (rx : List Byte) (hcaps : s.caps = u.caps) (hbuf : s.buf = u.buf)
    (hlen : s.len = u.len) :
    (s.collectBytes t rx).buf = (u.collectBytes t' rx).buf ∧ (s.collectBytes t rx).len = (u.collectBytes t' rx).len := by
  induction rx generalizing s u with
  | nil => exact ⟨hbuf, hlen⟩
  | cons b rx ih =>
    obtain hroom | hfull := Nat.lt_or_ge s.len s.caps.frameCap
    · have hroom' : u.len < u.caps.frameCap := by rwa [← hlen, ← hcaps]
      rw [collectBytes_cons, collectBytes_cons, collectByte_eq_of_room t b hroom, collectByte_eq_of_room t' b hroom']
      exact ih hcaps (by simp [hbuf, hlen]) (by simp [hlen])
    · have hfull' : u.caps.frameCap ≤ u.len := by rwa [← hlen, ← hcaps]
      rw [collectBytes_of_full t _ hfull, collectBytes_of_full t' _ hfull']
      exact ⟨hbuf, hlen⟩

theorem collectBytes_append (t : Nat) (s : State) (first second : List Byte) :
    s.collectBytes t (first ++ second) = (s.collectBytes t first).collectBytes t second :=
  List.foldl_append

theorem collectBytes_caps (t : Nat) (s : State) (rx : List Byte) : (s.collectBytes t rx).caps = s.caps := by
  rw [collectBytes_frame]

/-- Settles O24: collecting the concatenation is collecting the pieces, and the first piece's time is of no consequence. -/
theorem collectionInPiecesBuildsTheSameFrame : Obligations.CollectionInPiecesBuildsTheSameFrame := by
  intro s t u first second
  obtain ⟨hbuf, hlen⟩ := collectBytes_buf_len_congr (s := s) t u first rfl rfl rfl
  rw [collectBytes_append]
  exact collectBytes_buf_len_congr u u second (by rw [collectBytes_caps, collectBytes_caps]) hbuf hlen

end Sys2Proof.Machine
end

section
/-! The POLL step: the state at its silence test, when the test succeeds, what the completed frame leaves, and what it can write
and transmit (R46, R110, R113, R114, R183). -/

namespace Sys2Proof.Machine

open Sys2Proof

/-! ### The state at the silence test -/

@[simp] theorem State.atTest_hr (s : State) (t : Nat) (rest : List HostEvent) : (s.atTest t rest).hr = s.hr := by
  rw [State.atTest, afterCollect_frame]
  rfl

@[simp] theorem State.atTest_rxq (s : State) (t : Nat) (rest : List HostEvent) : (s.atTest t rest).rxq = [] := by
  rw [State.atTest, afterCollect_frame]

@[simp] theorem State.atTest_now (s : State) (t : Nat) (rest : List HostEvent) : (s.atTest t rest).now = t := by
  rw [State.atTest, afterCollect_frame]

/-- With nothing waiting the step only notes the clock and the phase before its silence test. -/
theorem State.atTest_of_rxq_nil {s : State} (t : Nat) (rest : List HostEvent) (h : s.rxq = []) :
    s.atTest t rest = { s with host := rest, now := t, phase := .polled } := by
  have hcollect (u : State) (hu : u.rxq = []) : u.collect t = u := by
    rw [State.collect, hu, collectBytes_nil, State.emptyQueue, ← hu]
  exact hcollect _ h

/-- A step that appends a byte stamps it with its own now (R111). -/
theorem State.atTest_of_appended {s : State} (t : Nat) (rest : List HostEvent) (hbytes : s.rxq ≠ [])
    (hroom : s.len < s.caps.frameCap) : (s.atTest t rest).tLast = t ∧ 0 < (s.atTest t rest).len := by
  have hlen : (s.atTest t rest).len = min (s.len + s.rxq.length) s.caps.frameCap :=
    collectBytes_len (s := ((s.withHost rest).notePoll t).emptyQueue) t s.rxq hroom.le
  have hpos := List.length_pos_iff.mpr hbytes
  exact ⟨(collectBytes_tLast t _ s.rxq).trans (if_pos ⟨hbytes, hroom⟩), by omega⟩

/-! ### The silence test -/

/-- A step whose silence test fails ends after the collection (R110). -/
theorem step_of_not_silent {s : State} {t : Nat} {rest : List HostEvent} (hpolls : s.polls t rest)
    (hsilent : (s.atTest t rest).silent t = false) : step s = .next (s.atTest t rest) := by
  rw [step_of_polls hpolls, delimit_of_not_silent hsilent]

/-- Settles O25.  A step that appends a byte has elapsed time 0, which no threshold is below. -/
theorem silenceTestIsStrictAndNeverFiresOnArrival : Obligations.SilenceTestIsStrictAndNeverFiresOnArrival := by
  intro s t rest hinv hpolls
  have hsilent := silent_iff (s.atTest t rest) t
  rw [State.atTest_cfg] at hsilent
  have hfails (h : ¬ (0 < (s.atTest t rest).len ∧ s.cfg.tSilence < t - (s.atTest t rest).tLast)) :
      step s = .next (s.atTest t rest) :=
    step_of_not_silent hpolls (Bool.eq_false_iff.mpr fun hs => h (hsilent.mp hs))
  refine ⟨fun hlen => ?_, fun hlen hlong => step_of_silent hpolls (hsilent.mpr ⟨hlen, hlong⟩), hfails, fun hbytes hroom => ?_⟩
  · simpa using (hinv.atTest hpolls).lastByteTime hlen
  · obtain ⟨hstamped, hlen⟩ := State.atTest_of_appended t rest hbytes hroom
    exact ⟨hstamped, hlen, hfails (by omega)⟩

/-- Settles O26: an empty buffer completes no frame, and with nothing waiting nothing is collected. -/
theorem idleBlockStaysIdle : Obligations.IdleBlockStaysIdle :=
  ⟨fun _ hhost => step_of_noEvent hhost, fun _ t rest hpolls hrxq hlen =>
    (step_of_polls_empty hpolls hlen).trans (congrArg Host.Outcome.next (State.atTest_of_rxq_nil t rest hrxq))⟩

/-! ### The completed frame -/

theorem handleFrame_of_decode {s : State} {i : Instr} (h : decode s.cfg.slaveAddr s.buf s.len = .ok i) :
    handleFrame s = exec i s := by
  unfold handleFrame
  rw [h]

/-- Settles O22: the step handles the frame at its silence test, which is to run the request it decodes to. -/
theorem stepRunsTheDecodedRequest : Obligations.StepRunsTheDecodedRequest := by
  intro s t rest i hpolls
  refine ⟨State.atTest_of_rxq_nil t rest, fun hsilent hdecode => ?_⟩
  rw [step_of_silent hpolls hsilent, handleFrame_of_decode hdecode]

/-- Settles O27: every outcome of the closed list leaves LEN cleared, and writes neither BUF nor T_LAST. -/
theorem completedFrameIsAlwaysCleared : Obligations.CompletedFrameIsAlwaysCleared := by
  intro s t rest hinv hpolls hsilent
  exact ⟨_, completedFrameHasTheListedOutcome s t rest hinv hpolls hsilent, rfl, rfl, rfl, by simp, by simp⟩

/-- Settles O29: without silence the step only collects, and a frame that fails one of the three tests leaves no trace. -/
theorem onlyValidFramesAreAnswered : Obligations.OnlyValidFramesAreAnswered := by
  intro s u t rest hinv hpolls hstep htx
  have hanswered (v : State) (hv : step s = .next v) : v.tx ≠ s.tx := by
    cases hv.symm.trans hstep
    exact htx
  have hsilent : (s.atTest t rest).silent t = true := by
    by_contra h
    exact hanswered _ (step_of_not_silent hpolls (Bool.eq_false_iff.mpr h)) (State.atTest_tx s t rest)
  have hvalid (hbad : (s.atTest t rest).len < 4 ∨ (s.atTest t rest).bufAt 0 ≠ s.cfg.slaveAddr ∨
      crc16 ((s.atTest t rest).buf.take ((s.atTest t rest).len - 2)) ≠
        receivedCrc (s.atTest t rest).buf (s.atTest t rest).len) : False :=
    hanswered _ (droppedFramesLeaveNoTrace.1 s t rest hinv hpolls hsilent hbad) (State.atTest_tx s t rest)
  exact ⟨hsilent, not_lt.mp fun h => hvalid (.inl h), not_not.mp fun h => hvalid (.inr (.inl h)),
    not_not.mp fun h => hvalid (.inr (.inr h))⟩

/-! ### What a POLL step writes and transmits -/

/-- What the handling of a frame writes and transmits: either HR as it was and at most one response of 5 to RESP_CAP bytes, or a
WSR in range that wrote its cell and sent back the frame. -/
theorem handleFrame_sends {s t : State} (h : handleFrame s = .next t) :
    (t.hr = s.hr ∧ ∃ response, t.tx = s.tx ++ response ∧
        (response = [] ∨ (5 ≤ response.length ∧ response.length ≤ s.caps.respCap))) ∨
      ∃ reg val, decode s.cfg.slaveAddr s.buf s.len = .ok (.wsr reg val) ∧ reg.toNat < s.cfg.count ∧
        t.hr = Memory.write s.hr reg.toNat val ∧ t.tx = s.tx ++ s.buf.take s.len ∧ s.len ≤ s.caps.respCap := by
  obtain rfl | ⟨i, hdecode, hexec⟩ := handleFrame_next h
  · exact .inl ⟨rfl, [], (List.append_nil _).symm, .inl rfl⟩
  · obtain ⟨rsp, hlen, hsend⟩ | ⟨reg, val, rfl, hreg, hsend⟩ := exec_sends hexec
    · obtain ⟨hfits, rfl⟩ := send_next hsend
      exact .inl ⟨rfl, withCrc rsp, rfl, .inr ⟨by simpa using hlen, by simpa using hfits⟩⟩
    · obtain ⟨hfits, rfl⟩ := send_next hsend
      obtain ⟨_, hcells, _⟩ := decode_ok_iff.mp hdecode
      rw [List.length_take, State.writeCell_caps] at hfits
      refine .inr ⟨reg, val, hdecode, hreg, rfl, ?_, by omega⟩
      rw [take_eq_withCrc_of_decode hdecode]
      rfl

/-- Settles O31.  The echo has the frame's length, which is 5 to RESP_CAP bytes when it is 8 or more. -/
theorem pollWritesOneCellAndSendsOneResponseAtMost : Obligations.PollWritesOneCellAndSendsOneResponseAtMost := by
  intro s u t rest hinv hpolls hstep
  have htest := hinv.atTest hpolls
  refine ⟨(stepKeepsTheInvariant s u hinv hstep).lenBound, ?_⟩
  rw [step_of_polls hpolls] at hstep
  obtain ⟨_, rfl⟩ | ⟨_, v, hhandle, rfl⟩ := delimit_next hstep
  · exact ⟨.inl (by simp), [], by simp, .inl rfl⟩
  · obtain ⟨hhr, response, htx, hresponse⟩ | ⟨reg, val, hdecode, hreg, hhr, htx, hfits⟩ := handleFrame_sends hhandle
    · rw [State.atTest_hr] at hhr
      rw [State.atTest_tx] at htx
      rw [State.atTest_caps] at hresponse
      exact ⟨.inl hhr, response, htx, hresponse.imp_right .inl⟩
    · have hlen : 4 ≤ (s.atTest t rest).len := (decode_ok_iff.mp hdecode).1
      have htaken := List.length_take_of_le htest.len_le_buf_length
      simp only [State.atTest_cfg, State.atTest_hr, State.atTest_tx, State.atTest_caps] at hdecode hreg hhr htx hfits
      refine ⟨.inr ⟨reg, val, hdecode, hreg, fun a ha => ?_⟩, _, htx, .inr ?_⟩
      · exact (congrArg (Memory.read · a) hhr).trans ((Memory.read_write hinv.table reg.toNat val a).trans (if_neg ha))
      · rw [htaken]
        obtain hshort | hlong := Nat.lt_or_ge (s.atTest t rest).len 8
        · exact .inr ⟨hlen, rfl, hshort, reg, val, hdecode⟩
        · exact .inl ⟨by omega, hfits⟩

end Sys2Proof.Machine
end

section
/-! Stale bytes: the outcome of a frame depends on the bytes of the frame, and on others only for register accesses of 4 to 7
bytes (R34, D11, D12). -/

namespace Sys2Proof.Machine

open Sys2Proof

theorem State.Inv.withBuf {s : State} (h : s.Inv) {buf : List Byte} (hlength : buf.length = s.buf.length) :
    ({ s with buf := buf } : State).Inv :=
  ⟨h.parameters, hlength.trans h.bufCells, h.lenBound, h.lastByteTime, h.idleBeforeFirstPoll, h.table⟩

/-- A frame that is too short or no WSR leaves the table as it was. -/
theorem frameTable_of_no_write {s : State} (h : ¬ (4 ≤ s.len ∧ s.bufAt 1 = 0x06#8)) : s.frameTable = s.hr := by
  obtain hshort | hlen := Nat.lt_or_ge s.len 4
  · simp [State.frameTable, State.frameOutcome, hshort]
  · have hcode : s.bufAt 1 ≠ 0x06#8 := fun hcode => h ⟨hlen, hcode⟩
    unfold State.frameTable State.frameOutcome
    rw [if_neg hcode]
    split_ifs <;> rfl

section StaleBytes

variable {s : State} {buf : List Byte} (htake : buf.take s.len = s.buf.take s.len)

include htake

/-- Below LEN the two buffers hold the same bytes. -/
theorem bufAt_withBuf {i : Nat} (hi : i < s.len) : ({ s with buf := buf } : State).bufAt i = s.bufAt i := by
  have hget := congrArg (·.getD i 0) htake
  simpa [State.bufAt, List.getD_eq_getElem?_getD, List.getElem?_take, hi] using hget

theorem take_withBuf {k : Nat} (hk : k ≤ s.len) : buf.take k = s.buf.take k := by
  have htaken := congrArg (List.take k) htake
  rwa [List.take_take, List.take_take, Nat.min_eq_left hk] at htaken

/-- A frame of 8 bytes or more holds its own operands. -/
theorem operands_withBuf (hlen : 8 ≤ s.len) :
    ({ s with buf := buf } : State).frameAddress = s.frameAddress ∧ ({ s with buf := buf } : State).frameData = s.frameData := by
  have hsame (i : Nat) (hi : i < 8) := bufAt_withBuf htake (hi.trans_le hlen)
  simp [State.frameAddress, State.frameData, hsame]

/-- The outcome of the closed list is the same with other stale bytes. -/
theorem frameOutcome_withBuf (hkind : s.len < 4 ∨ 8 ≤ s.len ∨ (s.bufAt 1 ≠ 0x03#8 ∧ s.bufAt 1 ≠ 0x06#8)) :
    ({ s with buf := buf } : State).frameOutcome = s.frameOutcome := by
  obtain hshort | hlen := Nat.lt_or_ge s.len 4
  · simp [State.frameOutcome, hshort]
  · have h0 := bufAt_withBuf htake (show 0 < s.len by omega)
    have h1 := bufAt_withBuf htake (show 1 < s.len by omega)
    have hlow := bufAt_withBuf htake (show s.len - 2 < s.len by omega)
    have hhigh := bufAt_withBuf htake (show s.len - 1 < s.len by omega)
    have hbody := take_withBuf htake (Nat.sub_le s.len 2)
    obtain hshort | hlong | ⟨hnoRead, hnoWrite⟩ := hkind
    · omega
    · obtain ⟨haddress, hdata⟩ := operands_withBuf htake hlong
      simp [State.frameOutcome, State.exceptionReply, h0, h1, hlow, hhigh, hbody, haddress, hdata]
    · simp [State.frameOutcome, State.exceptionReply, h0, h1, hlow, hhigh, hbody, hnoRead, hnoWrite]

/-- So is the table the frame leaves: only a write changes it, at the address its own bytes name. -/
theorem frameTable_withBuf (hkind : s.len < 4 ∨ 8 ≤ s.len ∨ (s.bufAt 1 ≠ 0x03#8 ∧ s.bufAt 1 ≠ 0x06#8)) :
    ({ s with buf := buf } : State).frameTable = s.frameTable := by
  by_cases hwrite : 4 ≤ s.len ∧ s.bufAt 1 = 0x06#8
  · obtain ⟨hlen, hcode⟩ := hwrite
    have hlong : 8 ≤ s.len := by
      obtain hshort | hlong | ⟨_, hnoWrite⟩ := hkind
      · omega
      · exact hlong
      · exact absurd hcode hnoWrite
    obtain ⟨haddress, hdata⟩ := operands_withBuf htake hlong
    rw [State.frameTable, State.frameTable, frameOutcome_withBuf htake hkind, haddress, hdata]
  · rw [frameTable_of_no_write hwrite, frameTable_of_no_write]
    rintro ⟨hlen, hcode⟩
    exact hwrite ⟨hlen, (bufAt_withBuf htake (Nat.lt_of_lt_of_le (by decide) hlen)).symm.trans hcode⟩

end StaleBytes

/-- Settles O21: both handlings have the outcome of the closed list, which is the same for the two buffers. -/
theorem staleBytesDoNotInfluenceFullFrames : Obligations.StaleBytesDoNotInfluenceFullFrames := by
  intro s buf hinv hlength htake _ hkind
  refine ⟨_, handleFrame_eq_frameOutcome hinv, ?_⟩
  rw [handleFrame_eq_frameOutcome (hinv.withBuf hlength), frameOutcome_withBuf htake hkind, frameTable_withBuf htake hkind]

end Sys2Proof.Machine
end

section
/-! The environment's events and the model's loader: what each event leaves (R40, R43, R45, R261), and that a placed table word is
the next request to run (log entry 6). -/

namespace Sys2Proof.Machine

open Sys2Proof

/-! ### The environment's events -/

/-- Settles O32: BUF is drawn anew, one free value a cell. -/
theorem resetEventClearsFrameAndTx : Obligations.ResetEventClearsFrameAndTx := by
  intro s rest hhost
  exact ⟨_, step_of_reset hhost, rfl, rfl, rfl, rfl, rfl, rfl, by simp, rfl, rfl, rfl⟩

/-- Settles O33: inside the table the event is one write of the memory, whose reads are the memory's law. -/
theorem hostWriteChangesOneCell : Obligations.HostWriteChangesOneCell := by
  intro s i v rest hinv hhost
  rw [step_of_event hhost, runEvent_hostWrite]
  have hread := Memory.read_write hinv.table i v
  refine ⟨fun hin => ⟨Memory.write s.hr i v, if_pos hin, ?_, fun a ha => ?_⟩, fun hout => if_neg (Nat.not_lt.mpr hout)⟩
  · rw [hread, if_pos rfl]
  · rw [hread, if_neg ha]

/-- Settles O34. -/
theorem receivedBytesQueueInOrder : Obligations.ReceivedBytesQueueInOrder :=
  fun _ _ _ hhost => step_of_event hhost

/-- Settles O35: the phase is tested first, then the legality, and an accepted configuration restricts the table to its COUNT. -/
theorem configurationIsLegalAndComesBeforePolling : Obligations.ConfigurationIsLegalAndComesBeforePolling := by
  intro s cfg rest hhost
  refine ⟨fun hphase hcaps hcfg => ?_, fun hphase hillegal => ?_, fun hphase => ?_⟩
  · exact ⟨_, step_of_configure hhost hphase hcaps hcfg, fun _ ha => Memory.read_restrict cfg.count s.hr ha⟩
  · have hopen : (s.withHost rest).cfgOpen = true := (cfgOpen_iff _).mpr hphase
    have hlegal : (capsLegal s.caps && cfgLegal cfg) = false := by simpa [← Bool.not_eq_true, imp_iff_not_or] using hillegal
    simp [step_of_event hhost, hopen, hlegal]
  · have hclosed : (s.withHost rest).cfgOpen = false := by simp [State.cfgOpen, hphase]
    simp [step_of_event hhost, hclosed]

/-! ### A placed frame -/

/-- A placed frame is completed by the very next step: the POLL in front comes after the silence threshold, and not before the
clock. -/
theorem step_of_placeFrame {s : State} {frame : List Byte} (hlegal : s.parametersLegal = true) (hframe : frame ≠ []) :
    step (s.placeFrame frame) = endOfFrame (handleFrame ((s.placeFrame frame).atTest s.silentTime s.host)) := by
  have hpolls : (s.placeFrame frame).polls s.silentTime s.host := ⟨rfl, rfl, hlegal, Nat.le_max_left ..⟩
  refine step_of_silent hpolls ((silent_iff _ _).mpr ?_)
  rw [State.atTest_of_rxq_nil _ _ rfl]
  have hlate : s.tLast + s.cfg.tSilence + 1 ≤ s.silentTime := Nat.le_max_right ..
  refine ⟨List.length_pos_iff.mpr hframe, ?_⟩
  simp only [State.placeFrame_cfg, State.placeFrame_tLast]
  omega

/-! ### The table word -/

/-- The first byte of a table word of 8 bits is the word. -/
theorem tableByte_zero {w : Nat} (hw : w < 256) : tableByte 8 w 0 = BitVec.ofNat 8 w := by
  rw [tableByte, Nat.mod_eq_of_lt (show w < 2 ^ 8 from hw), Nat.mul_zero, Nat.shiftRight_zero]

theorem tableFrame_length (addr : Byte) (nbits w : Nat) : (tableFrame addr nbits w).length = 8 := request_length ..

/-- The dispatcher looks at the function code and the operand cells: the address before them and the bytes behind them play no part. -/
theorem decodeFunction_congr (f a a' g g' b2 b3 b4 b5 : Byte) (rest rest' : List Byte) :
    decodeFunction f (a :: g :: b2 :: b3 :: b4 :: b5 :: rest) = decodeFunction f (a' :: g' :: b2 :: b3 :: b4 :: b5 :: rest') := by
  simp only [decodeFunction, registerOperands_cons]

/-- A table word's frame decodes to one request, which carries the word's function code, whatever the slave it is for and the stale
bytes behind it. -/
theorem decode_tableFrame {w : Nat} (hw : w < 256) :
    ∃ i, i.func = BitVec.ofNat 8 w ∧
      ∀ (addr : Byte) (stale : List Byte), decode addr (tableFrame addr 8 w ++ stale) 8 = .ok i := by
  have hdispatch (addr : Byte) (stale : List Byte) :
      decode addr (tableFrame addr 8 w ++ stale) 8 = decodeFunction (tableByte 8 w 0) (tableFrame 0 8 w) :=
    calc decode addr (tableFrame addr 8 w ++ stale) 8
        = decode addr (tableFrame addr 8 w ++ stale) (tableFrame addr 8 w).length := by rw [tableFrame_length]
      _ = decodeFunction (tableByte 8 w 0) (tableFrame addr 8 w ++ stale) := decode_request ..
      _ = decodeFunction (tableByte 8 w 0) (tableFrame 0 8 w) := decodeFunction_congr ..
  obtain ⟨i, hi⟩ := decodeFunction_total (tableByte 8 w 0) (buf := tableFrame 0 8 w) (by rw [tableFrame_length]; decide)
  obtain ⟨_, hfunc, _⟩ := decodeFunction_selects hi
  exact ⟨i, hfunc.trans (tableByte_zero hw), fun addr stale => (hdispatch addr stale).trans hi⟩

/-- Settles O36: the frame is completed by the next step, and decodes there, for this slave and among the stale bytes of BUF, to the
request that the table word decodes to. -/
theorem placedTableWordRunsNext : Obligations.PlacedTableWordRunsNext := by
  intro s w hinv hw
  obtain ⟨i, hfunc, hdecode⟩ := decode_tableFrame hw
  have hlen := tableFrame_length s.cfg.slaveAddr 8 w
  have hword : decodeTableWord 8 w = some i := by
    rw [decodeTableWord, ← List.append_nil (tableFrame _ _ _), hdecode]
  refine ⟨i, (s.withFetchWord 8 w).atTest s.silentTime s.host, hword, hfunc, ?_, by simp [State.withFetchWord],
    by simp [State.withFetchWord], by simp [State.withFetchWord], ?_⟩
  · rw [State.atTest_of_rxq_nil _ _ rfl]
    exact hlen
  · rw [State.withFetchWord, step_of_placeFrame hinv.parameters (List.ne_nil_of_length_eq_add_one hlen), handleFrame_of_decode]
    rw [State.atTest_of_rxq_nil _ _ rfl]
    simp only [State.placeFrame_cfg, State.placeFrame_buf, State.placeFrame_len, hlen]
    exact hdecode _ _

end Sys2Proof.Machine
end
